-- ==== Sys2Proof/Word.lean ====
section
/-! DEFINITION. The widths of LWC-CORE's values (00_scope.md R30, R31; 10_state.md R102).

Every value is an unsigned bit vector of stated width, bit 0 the least significant (R30, R31). -/

namespace Sys2Proof

/-- A 32-bit interface register or command word (R102, R306). -/
abbrev Word := BitVec 32

/-- A byte of BUF (R150). -/
abbrev Byte := BitVec 8

/-- A nibble, the unit of AEAD lengths and the cell of GIFT (R121, R500). -/
abbrev Nibble := BitVec 4

/-- A 128-bit block (R40, R800). -/
abbrev Block := BitVec 128

end Sys2Proof
end

