-- ==== Sys2Proof/Syntax.lean ====
section
/-! DEFINITION. The commands of LWC-CORE: one constructor per row of the opcode map
(30_encoding.md R310), with the fields of the command word (R300) as arguments. -/

namespace Sys2Proof

/-- The SKINNY block size n that field BS selects (30_encoding.md R301). -/
inductive BlockSize where
  /-- BS = 0: n = 64. -/
  | n64
  /-- BS = 1: n = 128. -/
  | n128
  deriving DecidableEq, Repr

/-- The SKINNY-AEAD member that field MEMBER selects (30_encoding.md R304, 45_skinny_aead.md R900). -/
inductive Member where
  /-- MEMBER = 0: 128-bit nonce, 128-bit tag. -/
  | m1
  /-- MEMBER = 1: 96-bit nonce, 128-bit tag. -/
  | m2
  /-- MEMBER = 2: 128-bit nonce, 64-bit tag. -/
  | m3
  /-- MEMBER = 3: 96-bit nonce, 64-bit tag. -/
  | m4
  deriving DecidableEq, Repr

/-- The command set (30_encoding.md R310). Operands that no field carries are implicit registers or
BUF regions (R305), so only the SKINNY and SKINNY-AEAD rows have arguments. -/
inductive Instr where
  /-- NOP, word 0x00000000 (46_system.md R1001). -/
  | nop
  /-- CLEAR, word 0x00000001 (46_system.md R1002). -/
  | clear
  /-- GIFT64.ENC, word 0x00000010 (41_gift.md R540). -/
  | gift64Enc
  /-- GIFT64.DEC, word 0x00000011 (41_gift.md R541). -/
  | gift64Dec
  /-- GIFT128.ENC, word 0x00000012 (41_gift.md R542). -/
  | gift128Enc
  /-- GIFT128.DEC, word 0x00000013 (41_gift.md R543). -/
  | gift128Dec
  /-- GIFT128BS.ENC, word 0x00000014 (42_gift128_bitsliced.md R640). -/
  | gift128bsEnc
  /-- GIFT128BS.DEC, word 0x00000015 (42_gift128_bitsliced.md R641). -/
  | gift128bsDec
  /-- SKINNY.ENC, OP 0x20, fields BS, Z and ROUNDS (43_skinny.md R740). -/
  | skinnyEnc (n : BlockSize) (z rounds : Nat)
  /-- SKINNY.DEC, OP 0x21, fields BS, Z and ROUNDS (43_skinny.md R741). -/
  | skinnyDec (n : BlockSize) (z rounds : Nat)
  /-- COFB.ENC, word 0x00000030 (44_gift_cofb.md R830). -/
  | cofbEnc
  /-- COFB.DEC, word 0x00000031 (44_gift_cofb.md R831). -/
  | cofbDec
  /-- SKAEAD.ENC, OP 0x40, field MEMBER (45_skinny_aead.md R930). -/
  | skaeadEnc (member : Member)
  /-- SKAEAD.DEC, OP 0x41, field MEMBER (45_skinny_aead.md R931). -/
  | skaeadDec (member : Member)
  deriving DecidableEq, Repr

end Sys2Proof
end

