-- ==== Sys2Proof/Config.lean ====
section
/-! DEFINITION. The parameters that the spec leaves open (00_scope.md R12) and the free values.

A machine's parameters are fixed for a run (46_system.md R1013). `State` carries them as one plain
record that no step changes, so that a statement about every state is a statement about every value
of the parameters; `State.reset` takes the defaults of R12 (assumption log 1). CMD_LATENCY is the
scheduler's freedom and stands in `State` as the schedule (assumption log 3). -/

namespace Sys2Proof

/-- BS_LOADING, the loading convention of the bit-sliced GIFT-128 (42_gift128_bitsliced.md R603). -/
inductive BsLoading where
  /-- slice on input, unslice on output: equal to the table-driven engine (R630). -/
  | equiv
  /-- the four input words are the four slices (R631). -/
  | sliced
  deriving DecidableEq, Repr

/-- SKAEAD_TAG_RULE, the tag domain of SKINNY-AEAD (45_skinny_aead.md R915). -/
inductive TagRule where
  /-- role 4 for an empty message, role 5 otherwise. -/
  | doc
  /-- role 5 only when the last message block is partial. -/
  | published
  deriving DecidableEq, Repr

/-- SKAEAD_MEMBER_BITS, the member bits of the domain byte (45_skinny_aead.md R903). -/
structure MemberBits where
  m1 : Byte
  m2 : Byte
  m3 : Byte
  m4 : Byte
  deriving DecidableEq, Repr

/-- The parameters a machine takes as an argument (00_scope.md R12). -/
structure Params where
  /-- BUF_BYTES, the size of BUF. -/
  bufBytes : Nat
  /-- BS_LOADING. -/
  bsLoading : BsLoading
  /-- SKAEAD_TAG_RULE. -/
  tagRule : TagRule
  /-- SKAEAD_MEMBER_BITS. -/
  memberBits : MemberBits
  deriving DecidableEq, Repr

/-- The default of every parameter (00_scope.md R12). -/
def Params.default : Params where
  bufBytes := 4096
  bsLoading := .equiv
  tagRule := .doc
  memberBits := { m1 := 0x00#8, m2 := 0x10#8, m3 := 0x08#8, m4 := 0x18#8 }

/-- BUF_BYTES is a multiple of 4 with 64 <= BUF_BYTES <= 4096 (00_scope.md R12, 10_state.md R150). -/
def Params.wf (p : Params) : Bool :=
  p.bufBytes % 4 == 0 && decide (64 ≤ p.bufBytes) && decide (p.bufBytes ≤ 4096)

/-- The arbitrary value that byte `addr` of BUF holds after reset number `reset`: "a value drawn once
at reset and held until written" (70_reset_and_hazards.md R1201, 10_state.md R150). It has no body, so
no proof can use its value (assumption log 2). -/
opaque Config.bufDraw (reset addr : Nat) : Byte

end Sys2Proof
end

