-- ==== Sys2Proof/Machine/State.lean ====
section
/-! DEFINITION. The state of LWC-CORE (10_state.md R100, R102, R160; 46_system.md R1010), the ways a
step could stop, and the state right after reset (10_state.md R180, 70_reset_and_hazards.md R1200).

ID (R110) and the reserved offsets (R142) are hard-wired and hold no state; STATUS and IRQ (R112,
R1120) are views of the fields below, computed in Machine/Flags.lean; BUSY is the sequencer's state
(R160). The working state of a command lives inside one completion step (R170). -/

namespace Sys2Proof.Machine

open Sys2Proof

/-- Faults. There is none: "Nothing the host can do makes the core fault, hang or refuse"
(70_reset_and_hazards.md R1240), and an error ends as a completion code (60_exceptions.md R1100,
R1130). The type is closed and empty, which is safe: no step can claim a stop the spec does not have. -/
inductive Fault where
  deriving DecidableEq, Repr

/-- Refusals. -/
inductive Refusal where
  /-- Raised by an arm of `exec` whose instruction has no meaning yet; safe, since nothing can be
  proved of what the instruction does. No arm raises it: every command has its meaning. -/
  | notModelled (mnemonic : String)
  deriving DecidableEq, Repr

/-- The completion codes that a command can end with; codes 5 to 15 are reserved and never produced
(60_exceptions.md R1101). -/
inductive ErrCode where
  /-- code 0, OK. -/
  | ok
  /-- code 1, ILLEGAL (R1102). -/
  | illegal
  /-- code 2, CONFIG (R1103). -/
  | config
  /-- code 3, PRECOND (R1104). -/
  | precond
  /-- code 4, AUTH (R1105). -/
  | auth
  deriving DecidableEq, Repr

/-- SEQ, the command sequencer's state (10_state.md R160). -/
inductive Sequencer where
  /-- no command in flight. -/
  | idle
  /-- BUSY(w): the accepted command word w is in flight. -/
  | busy (w : Word)
  deriving DecidableEq, Repr

/-- What the host does next: one bus transaction, or the `wait` loop of reads of STATUS
(30_encoding.md R340, R342). An offset is OFF[12:0]. -/
inductive HostOp where
  /-- `wr OFF, V`. -/
  | wr (off : BitVec 13) (v : Word)
  /-- `rd OFF`. -/
  | rd (off : BitVec 13)
  /-- `wait`: `rd STATUS` until BUSY is 0; the last value read is its result. -/
  | wait
  deriving DecidableEq, Repr

/-- Who takes the next step: the choice of the scheduler, or the platform's reset
(46_system.md R1010, R1011). -/
inductive Turn where
  /-- the host issues its next transaction. -/
  | host
  /-- the sequencer completes the command in flight. -/
  | complete
  /-- the platform raises reset. -/
  | reset
  deriving DecidableEq, Repr

/-- BUF as the list of the bytes written since reset, one cell per address (10_state.md R150;
assumption log 2). -/
abbrev Memory := List Host.Cell

/-- The machine: the register file, BUF and SEQ (46_system.md R1010), the parameters of the run
(00_scope.md R12), and the model's own fields, which hold the run's argument (R1011) and what the
host has read (70_reset_and_hazards.md R1241). -/
structure State where
  /-- the parameters of 00_scope.md R12, fixed for a run (assumption log 1). -/
  params : Params
  /-- CMD, the last accepted command word (R111). -/
  cmd : Word
  /-- STATUS.DONE (R112). -/
  done : Bool
  /-- STATUS.WERR (R112). -/
  werr : Bool
  /-- STATUS.ERR (R112, R1101). -/
  err : ErrCode
  /-- IRQ_EN.DONE_IE (R113). -/
  doneIe : Bool
  /-- IRQ_EN.WERR_IE (R113). -/
  werrIe : Bool
  /-- AD_PTR (R120). -/
  adPtr : Word
  /-- AD_LEN (R121). -/
  adLen : Word
  /-- MSG_PTR (R120). -/
  msgPtr : Word
  /-- MSG_LEN (R121). -/
  msgLen : Word
  /-- OUT_PTR (R120). -/
  outPtr : Word
  /-- KEY0..KEY11 (R130). -/
  key : Vector Word 12
  /-- NONCE0..NONCE3 (R131). -/
  nonce : Vector Word 4
  /-- DIN0..DIN3 (R132). -/
  din : Vector Word 4
  /-- DOUT0..DOUT3 (R133). -/
  dout : Vector Word 4
  /-- TAG0..TAG3 (R134). -/
  tag : Vector Word 4
  /-- SEQ (R160). -/
  seq : Sequencer
  /-- BUF: the bytes written since reset, in canonical form (R150; assumption log 2). -/
  buf : Memory
  /-- The model's own: how many resets came before this one, which names the draw of the bytes of
  BUF that nothing has written (R1201; assumption log 2). -/
  resets : Nat
  /-- The model's own: the host's transactions still to be issued (R340, R1241; log 4). -/
  program : List HostOp
  /-- The model's own: the scheduler's choices still to be taken (R1011, R1230; log 3). -/
  schedule : List Turn
  /-- The model's own: the values that the host's reads returned, oldest first (R1241; log 4). -/
  reads : List Word
  deriving DecidableEq, Repr

/-- Four registers at 0. -/
def zero4 : Vector Word 4 := #v[0#32, 0#32, 0#32, 0#32]

/-- Twelve registers at 0. -/
def zero12 : Vector Word 12 :=
  #v[0#32, 0#32, 0#32, 0#32, 0#32, 0#32, 0#32, 0#32, 0#32, 0#32, 0#32, 0#32]

/-- The machine right after reset (10_state.md R102, R180; 70_reset_and_hazards.md R1200-R1203):
every register 0 (ID is hard-wired), SEQ = IDLE, no byte of BUF written. The parameters are at their
defaults (R12) and nothing is scheduled: the core waits for a host access (R1202). -/
def State.reset : State where
  params := Params.default
  cmd := 0#32
  done := false
  werr := false
  err := .ok
  doneIe := false
  werrIe := false
  adPtr := 0#32
  adLen := 0#32
  msgPtr := 0#32
  msgLen := 0#32
  outPtr := 0#32
  key := zero12
  nonce := zero4
  din := zero4
  dout := zero4
  tag := zero4
  seq := .idle
  buf := []
  resets := 0
  program := []
  schedule := []
  reads := []

end Sys2Proof.Machine
end

