-- ==== Sys2Proof/Machine/Flags.lean ====
section
/-! DEFINITION. STATUS, IRQ_EN and the interrupt output: the words the host reads and what writes do
(10_state.md R112, R113; 60_exceptions.md R1101, R1120). -/

namespace Sys2Proof.Machine

open Sys2Proof

/-- The 4-bit completion code of STATUS.ERR (60_exceptions.md R1101). -/
def errBits : ErrCode → BitVec 4
  | .ok => 0#4
  | .illegal => 1#4
  | .config => 2#4
  | .precond => 3#4
  | .auth => 4#4

/-- SEQ = BUSY(w) for some w (10_state.md R160). -/
def isBusy (s : State) : Bool :=
  match s.seq with
  | .idle => false
  | .busy _ => true

/-- The word a read of STATUS returns: BUSY [0], DONE [1], WERR [2], ERR [7:4], the rest 0
(10_state.md R112). -/
def statusWord (s : State) : Word :=
  0#24 ++ errBits s.err ++ 0#1 ++ BitVec.ofBool s.werr ++ BitVec.ofBool s.done ++
    BitVec.ofBool (isBusy s)

/-- The word a read of IRQ_EN returns: DONE_IE [0], WERR_IE [1], the rest 0 (10_state.md R113). -/
def irqEnWord (s : State) : Word :=
  0#30 ++ BitVec.ofBool s.werrIe ++ BitVec.ofBool s.doneIe

/-- The interrupt output, a function of the register file (60_exceptions.md R1120). -/
def irq (s : State) : Bool := (s.done && s.doneIe) || (s.werr && s.werrIe)

/-- A write to STATUS: bit 1 clears DONE and ERR, bit 2 clears WERR, other bits are ignored
(10_state.md R112). -/
def writeStatus (v : Word) (s : State) : State :=
  { s with
    done := if v.getLsbD 1 then false else s.done
    err := if v.getLsbD 1 then .ok else s.err
    werr := if v.getLsbD 2 then false else s.werr }

/-- A write to IRQ_EN: bits 0 and 1 are stored, the others discarded (10_state.md R113). -/
def writeIrqEn (v : Word) (s : State) : State :=
  { s with doneIe := v.getLsbD 0, werrIe := v.getLsbD 1 }

/-- A write dropped because SEQ = BUSY sets the sticky WERR (10_state.md R145). -/
def dropWrite (s : State) : State := { s with werr := true }

/-- Acceptance of a command word (10_state.md R161). -/
def accept (w : Word) (s : State) : State :=
  { s with cmd := w, done := false, err := .ok, seq := .busy w }

/-- The end of every command: ERR takes the completion code, DONE is set and SEQ becomes IDLE
(10_state.md R162, 60_exceptions.md R1100). -/
def complete (code : ErrCode) (s : State) : State :=
  { s with err := code, done := true, seq := .idle }

end Sys2Proof.Machine
end

