-- ==== Sys2Proof/Machine/Primitives.lean ====
section
/-! DEFINITION. The shared primitives of 40_primitives.md: bit-vector utilities, the round-constant
LFSR, GF(2^64) doubling and tripling, 10* padding, block splitting, the SKINNY-AEAD counter. Nibble
strings are lists of nibbles, first nibble first (20_memory.md R204). -/

namespace Sys2Proof.Machine

open Sys2Proof

/-- The natural number whose bit i, for i < n, is `f i`. -/
def bitsNat (f : Nat → Bool) : Nat → Nat
  | 0 => 0
  | n + 1 => bitsNat f n + (f n).toNat <<< n

/-- The n-bit value whose bit i is `f i` (00_scope.md R30). -/
def ofBits (n : Nat) (f : Nat → Bool) : BitVec n := BitVec.ofNat n (bitsNat f n)

/-- The natural number whose k lowest c-bit digits are `f 0`, `f 1`, ..., `f (k-1)`. -/
def cellsNat {c : Nat} (f : Nat → BitVec c) : Nat → Nat
  | 0 => 0
  | k + 1 => cellsNat f k + (f k).toNat <<< (c * k)

/-- The n-bit value whose c-bit cell j, at bits [c*j+c-1 : c*j], is `f j`. -/
def ofCells (n : Nat) {c : Nat} (f : Nat → BitVec c) : BitVec n := BitVec.ofNat n (cellsNat f (n / c))

/-- Entry x of a 16-entry table of nibbles written as one number, entry 0 its first hex digit. -/
def nibbleTable (table : BitVec 64) (x : Nibble) : Nibble := table.extractLsb' (4 * (15 - x.toNat)) 4

/-! ### Nibble arrays and bit sequences (R400) -/

/-- `bits_fwd`: position 4j+t holds bit 3-t of nibble j (R400). -/
def bitsFwd : List Nibble → List Bool
  | [] => []
  | a :: rest => a.getLsbD 3 :: a.getLsbD 2 :: a.getLsbD 1 :: a.getLsbD 0 :: bitsFwd rest

/-- `bits_rev`: position 4j+t holds bit t of nibble j (R400). -/
def bitsRev : List Nibble → List Bool
  | [] => []
  | a :: rest => a.getLsbD 0 :: a.getLsbD 1 :: a.getLsbD 2 :: a.getLsbD 3 :: bitsRev rest

/-- The nibble with bits b3 b2 b1 b0. -/
def nibbleOfBits (b3 b2 b1 b0 : Bool) : Nibble :=
  BitVec.ofBool b3 ++ BitVec.ofBool b2 ++ BitVec.ofBool b1 ++ BitVec.ofBool b0

/-- The inverse of `bits_fwd` on sequences of 4m bits (R400). -/
def nibblesOfFwd : List Bool → List Nibble
  | p :: q :: r :: s :: rest => nibbleOfBits p q r s :: nibblesOfFwd rest
  | _ => []

/-- The inverse of `bits_rev` on sequences of 4m bits (R400). -/
def nibblesOfRev : List Bool → List Nibble
  | p :: q :: r :: s :: rest => nibbleOfBits s r q p :: nibblesOfRev rest
  | _ => []

/-! ### Rotation (R402) -/

/-- `rotr_w(x, k)` (R402). -/
def rotr {w : Nat} (x : BitVec w) (k : Nat) : BitVec w :=
  (x >>> (k % w)) ||| (x <<< (w - k % w))

/-- `rotl_w(x, k)` (R402). -/
def rotl {w : Nat} (x : BitVec w) (k : Nat) : BitVec w :=
  (x <<< (k % w)) ||| (x >>> (w - k % w))

/-! ### The 6-bit round-constant LFSR (R410, R411) -/

/-- One update of the round-constant register (R410). -/
def rcNext (rc : BitVec 6) : BitVec 6 :=
  (rc <<< 1) ||| (BitVec.ofBool (rc.getLsbD 5 ^^ rc.getLsbD 4 ^^ true)).setWidth 6

/-- `RC[r]`: the register after r+1 updates from 0 (R410, R411). -/
def roundConstant : Nat → BitVec 6
  | 0 => rcNext 0#6
  | r + 1 => rcNext (roundConstant r)

/-- The next `count` round constants after the register value `rc` (R410). -/
def roundConstantsFrom : Nat → BitVec 6 → List (BitVec 6)
  | 0, _ => []
  | count + 1, rc => rcNext rc :: roundConstantsFrom count (rcNext rc)

/-- `[RC[0], ..., RC[rounds-1]]` (R410). -/
def roundConstants (rounds : Nat) : List (BitVec 6) := roundConstantsFrom rounds 0#6

/-! ### GF(2^64) (R420, R421) -/

/-- Multiplication by X modulo x^64+x^4+x^3+x+1 (R420). -/
def double (x : BitVec 64) : BitVec 64 :=
  (x <<< 1) ^^^ (if x.getLsbD 63 then 0x000000000000001B#64 else 0#64)

/-- Multiplication by X+1 (R421). -/
def triple (x : BitVec 64) : BitVec 64 := x ^^^ double x

/-! ### Blocks as nibble strings (20_memory.md R204) -/

/-- The 128-bit value of at most 32 nibbles, the last nibble lowest. -/
def packNibbles (m : List Nibble) : Block :=
  BitVec.ofNat 128 (m.foldl (fun acc x => acc * 16 + x.toNat) 0)

/-- The 32 nibbles of a block, the most significant first (20_memory.md R204). -/
def blockNibbles (b : Block) : List Nibble :=
  (List.range 32).map fun t => b.extractLsb' (4 * (31 - t)) 4

/-- `trunc_nib(v, len)`: the first len nibbles of v (R434). -/
def truncNib (v : Block) (len : Nat) : List Nibble := (blockNibbles v).take len

/-- The XOR of a nibble string with the first nibbles of a block (R434, 44_gift_cofb.md R810). -/
def xorTrunc (m : List Nibble) (y : Block) : List Nibble :=
  List.zipWith (fun p q => p ^^^ q) m (truncNib y m.length)

/-! ### Padding and splitting (R430-R433) -/

/-- `pad10_32(m, L)`: one nibble 1000, then zeros, for a string of fewer than 32 nibbles (R430). -/
def pad10 (m : List Nibble) : Block :=
  packNibbles (m ++ 0x8#4 :: List.replicate (31 - m.length) 0#4)

/-- `blk(b, len)`: a full block as it is, a partial one padded (R433). -/
def blk (m : List Nibble) : Block := if m.length = 32 then packNibbles m else pad10 m

/-- The next `count` blocks of 32 nibbles of a string, the last one with what is left (R431). -/
def splitBlocks : Nat → List Nibble → List (List Nibble)
  | 0, _ => []
  | count + 1, v => v.take 32 :: splitBlocks count (v.drop 32)

/-- `split(v, L)`: one empty block for the empty string, else ceil(L / 32) blocks (R431). -/
def split (v : List Nibble) : List (List Nibble) :=
  if v.length = 0 then [[]] else splitBlocks ((v.length + 31) / 32) v

/-- The tail classes of R432. -/
inductive Tail where
  | empty
  | fullTail
  | partialTail
  deriving DecidableEq, Repr

/-- `tail(L)` (R432). -/
def tailOf (len : Nat) : Tail :=
  if len = 0 then .empty else if len % 32 = 0 then .fullTail else .partialTail

/-! ### The SKINNY-AEAD counter (R440, R441) -/

/-- `lfsr_next(x) = double(x)` (R440). -/
def lfsrNext (x : BitVec 64) : BitVec 64 := double x

/-- `byterev64(x)`: the eight bytes in reverse order (R441). -/
def byterev64 (x : BitVec 64) : BitVec 64 :=
  x.extractLsb' 0 8 ++ x.extractLsb' 8 8 ++ x.extractLsb' 16 8 ++ x.extractLsb' 24 8 ++
    x.extractLsb' 32 8 ++ x.extractLsb' 40 8 ++ x.extractLsb' 48 8 ++ x.extractLsb' 56 8

end Sys2Proof.Machine
end

