-- ==== Sys2Proof/Machine/Ops.lean ====
section
/-! DEFINITION. The named operations on BUF and on the register file (10_state.md sections 2 and 3,
20_memory.md R210, R220, R221), the end of a command with an error code, and the reset event.

BUF is the list of the bytes written since reset, addresses strictly rising; an address that is not
listed holds no written byte, and reads as the draw of 70_reset_and_hazards.md R1201 (assumption log
2). The core takes no trap (60_exceptions.md R1130): `raiseErr` is the one way an error ends a
command, and nothing returns from it. -/

namespace Sys2Proof.Machine

open Sys2Proof

/-! ### BUF as a canonical list of cells -/

/-- The written byte at an address, none if nothing has written it since reset. -/
def cellRead : Memory → Nat → Option Byte
  | [], _ => none
  | (x, c) :: rest, a => if x = a then some c else cellRead rest a

/-- Writing one byte, the addresses kept strictly rising. -/
def cellWrite : Memory → Nat → Byte → Memory
  | [], a, b => [(a, b)]
  | (x, c) :: rest, a, b =>
    if a < x then (a, b) :: (x, c) :: rest
    else if a = x then (a, b) :: rest
    else (x, c) :: cellWrite rest a b

/-- Writing consecutive bytes from an address on. -/
def cellsWrite : Memory → Nat → List Byte → Memory
  | cells, _, [] => cells
  | cells, a, b :: rest => cellsWrite (cellWrite cells a b) (a + 1) rest

/-- The canonical form: addresses strictly rising and below the bound. An entry always differs from
what an unlisted address holds, which is no written byte. -/
def Memory.wf (bound : Nat) : Memory → Bool
  | [] => true
  | [(x, _)] => decide (x < bound)
  | (x, _) :: (y, c) :: rest => decide (x < y) && Memory.wf bound ((y, c) :: rest)

/-- Every byte of BUF written with 0x00 (46_system.md R1002). -/
def zeroCells (bufBytes : Nat) : Memory := (List.range bufBytes).map fun a => (a, 0#8)

/-! ### BUF of a state -/

/-- `BUF[a]`: the written byte, else the value drawn at reset (10_state.md R150,
70_reset_and_hazards.md R1201). -/
def bufByte (s : State) (a : Nat) : Byte := (cellRead s.buf a).getD (Config.bufDraw s.resets a)

/-- Writing consecutive bytes of BUF (00_scope.md R33, MemWrite). -/
def bufWrite (a : Nat) (bytes : List Byte) (s : State) : State :=
  { s with buf := cellsWrite s.buf a bytes }

/-- `MemRead(a, 4)`, the first byte most significant (00_scope.md R33, 20_memory.md R203). -/
def bufWord (s : State) (a : Nat) : Word :=
  bufByte s a ++ bufByte s (a + 1) ++ bufByte s (a + 2) ++ bufByte s (a + 3)

/-- The four bytes of a word, the most significant first (20_memory.md R203). -/
def wordBytes (v : Word) : List Byte :=
  [v.extractLsb' 24 8, v.extractLsb' 16 8, v.extractLsb' 8 8, v.extractLsb' 0 8]

/-- Nibble t of the string at byte a: the high nibble if t is even, the low one if t is odd
(20_memory.md R204, R220). -/
def bufNibble (s : State) (a t : Nat) : Nibble :=
  if t % 2 = 0 then (bufByte s (a + t / 2)).extractLsb' 4 4
  else (bufByte s (a + t / 2)).extractLsb' 0 4

/-- `NibRead(a, L)` (20_memory.md R220). -/
def nibRead (s : State) (a len : Nat) : List Nibble := (List.range len).map fun t => bufNibble s a t

/-- The bytes of a nibble string; the low nibble of the last byte of an odd-length one is 0
(20_memory.md R220). -/
def nibbleBytes : List Nibble → List Byte
  | [] => []
  | [h] => [h ++ 0#4]
  | h :: l :: rest => (h ++ l) :: nibbleBytes rest

/-- `NibWrite(a, L, v)` with L the length of v (20_memory.md R220). -/
def nibWrite (a : Nat) (v : List Nibble) (s : State) : State := bufWrite a (nibbleBytes v) s

/-! ### Writing results -/

/-- DOUT0..DOUT3 <- the four words of a 128-bit result (10_state.md R133). -/
def setDout128 (y : Block) (s : State) : State :=
  { s with dout := #v[y.extractLsb' 96 32, y.extractLsb' 64 32, y.extractLsb' 32 32,
      y.extractLsb' 0 32] }

/-- DOUT0, DOUT1 <- a 64-bit result, DOUT2 and DOUT3 <- 0 (10_state.md R133). -/
def setDout64 (y : BitVec 64) (s : State) : State :=
  { s with dout := #v[y.extractLsb' 32 32, y.extractLsb' 0 32, 0#32, 0#32] }

/-- TAG0..TAG3 <- a 128-bit tag (10_state.md R134). -/
def setTag128 (t : Block) (s : State) : State :=
  { s with tag := #v[t.extractLsb' 96 32, t.extractLsb' 64 32, t.extractLsb' 32 32,
      t.extractLsb' 0 32] }

/-- TAG0, TAG1 <- a 64-bit tag, TAG2 and TAG3 <- 0 (10_state.md R134). -/
def setTag64 (t : BitVec 64) (s : State) : State :=
  { s with tag := #v[t.extractLsb' 32 32, t.extractLsb' 0 32, 0#32, 0#32] }

/-- CLEAR's zeroisation: KEY, NONCE, DIN, DOUT, TAG, the pointers and lengths, every byte of BUF, and
WERR (46_system.md R1002). -/
def clearData (s : State) : State :=
  { s with
    key := zero12
    nonce := zero4
    din := zero4
    dout := zero4
    tag := zero4
    adPtr := 0#32
    adLen := 0#32
    msgPtr := 0#32
    msgLen := 0#32
    outPtr := 0#32
    buf := zeroCells s.params.bufBytes
    werr := false }

/-! ### Completion -/

/-- A command ends with success (10_state.md R162). -/
def succeed (s : State) : Host.Outcome State Fault Refusal := .next (complete .ok s)

/-- `raise ERR_<name>`: the command ends with an error code and none of its outputs
(00_scope.md R33, 46_system.md R1012, 60_exceptions.md R1100, R1130). -/
def raiseErr (code : ErrCode) (s : State) : Host.Outcome State Fault Refusal :=
  .next (complete code s)

/-! ### Reset -/

/-- The reset event (70_reset_and_hazards.md R1200, R1201, R1203): every register to its reset value,
SEQ to IDLE whatever was in flight, and a new draw of every byte of BUF. The parameters, the host's
remaining transactions, the schedule and what the host has read are no state of the core and stay. -/
def resetEvent (s : State) : State :=
  { State.reset with
    params := s.params
    resets := s.resets + 1
    program := s.program
    schedule := s.schedule
    reads := s.reads }

end Sys2Proof.Machine
end

