-- ==== Sys2Proof/Machine/GiftCipher.lean ====
section
/-! DEFINITION. The GIFT-64 and GIFT-128 table-driven cipher (41_gift.md R500-R522). The GIFT-N state is
an N-bit value with nibble j at bits [4j+3 : 4j] (R500). -/

namespace Sys2Proof.Machine

open Sys2Proof

/-- Nibble j of a GIFT state, `b[4j+3 : 4j]` (R500). -/
def giftNibble {n : Nat} (b : BitVec n) (j : Nat) : Nibble := b.extractLsb' (4 * j) 4

/-- The GIFT S-box GS (R503). -/
def giftSbox (x : Nibble) : Nibble := nibbleTable 0x1A4C6F392DB7508E#64 x

/-- The inverse S-box GS_INV (R504). -/
def giftSboxInv (y : Nibble) : Nibble := nibbleTable 0xD0862C4BE71A39F5#64 y

/-- SubCells_N (R505). -/
def giftSubCells {n : Nat} (b : BitVec n) : BitVec n := ofCells n fun j => giftSbox (giftNibble b j)

/-- InvSubCells_N (R505). -/
def giftInvSubCells {n : Nat} (b : BitVec n) : BitVec n :=
  ofCells n fun j => giftSboxInv (giftNibble b j)

/-- `P_N(i)`, where bit i of a GIFT-N state moves to (R506). -/
def giftPerm (n i : Nat) : Nat :=
  4 * (i / 16) + (n / 4) * ((3 * ((i % 16) / 4) + i % 4) % 4) + i % 4

/-- The bit that `P_N` moves to bit j: the inverse of the formula of R506, the tables
P_64^-1 and P_128^-1 of R507 and R508. -/
def giftPermInv (n j : Nat) : Nat :=
  16 * (j % (n / 4) / 4) + 4 * ((3 * (j / (n / 4)) + j % 4) % 4) + j % 4

/-- PermBits_N: `b'[P_N(i)] = b[i]` (R506), written bit of the result by bit of the result. -/
def giftPermBits {n : Nat} (b : BitVec n) : BitVec n := ofBits n fun j => b.getLsbD (giftPermInv n j)

/-- InvPermBits_N: `b[i] = b'[P_N(i)]` (R506). -/
def giftInvPermBits {n : Nat} (b : BitVec n) : BitVec n := ofBits n fun i => b.getLsbD (giftPerm n i)

/-! ### Key state and round keys (R510-R514) -/

/-- Key word k_i of the key state K = k7 || ... || k0 (R510). -/
def giftKeyWord (k : Block) (i : Nat) : BitVec 16 := k.extractLsb' (16 * i) 16

/-- The key update (R512): `(k7, ..., k0) <- (rotr(k1, 2), rotr(k0, 12), k7, ..., k2)`. -/
def giftKeyUpdate (k : Block) : Block :=
  rotr (giftKeyWord k 1) 2 ++ rotr (giftKeyWord k 0) 12 ++ k.extractLsb' 32 96

/-- The round-key halves of GIFT-64: U = k1, V = k0 (R511). -/
def giftRoundKey64 (k : Block) : BitVec 16 × BitVec 16 := (giftKeyWord k 1, giftKeyWord k 0)

/-- The round-key halves of GIFT-128: U = k5 || k4, V = k1 || k0 (R511). -/
def giftRoundKey128 (k : Block) : BitVec 32 × BitVec 32 :=
  (giftKeyWord k 5 ++ giftKeyWord k 4, giftKeyWord k 1 ++ giftKeyWord k 0)

/-- The key states of `rounds` rounds from `k` on: entry r is `k` after r updates (R514). -/
def giftKeyStates : Nat → Block → List Block
  | 0, _ => []
  | rounds + 1, k => k :: giftKeyStates rounds (giftKeyUpdate k)

/-- `RK_64(K)`, 28 entries (R514). -/
def giftRoundKeys64 (k : Block) : List (BitVec 16 × BitVec 16) :=
  (giftKeyStates 28 k).map giftRoundKey64

/-- `RK_128(K)`, 40 entries (R514). -/
def giftRoundKeys128 (k : Block) : List (BitVec 32 × BitVec 32) :=
  (giftKeyStates 40 k).map giftRoundKey128

/-! ### AddRoundKey (R513) -/

/-- The bit that the round constant and the constant 1 add to bit 3 of nibble j of a GIFT-N state
(R513): c[j] for j <= 5, and 1 for the top bit b[N-1]. -/
def giftConstBit (n : Nat) (c : BitVec 6) (j : Nat) : Bool := c.getLsbD j ^^ decide (4 * j + 3 = n - 1)

/-- What AddRoundKey XORs into a GIFT-64 state: V[i] at bit 4i, U[i] at 4i+1, the constants at 4i+3
(R513). -/
def giftRoundMask64 (rk : BitVec 16 × BitVec 16) (c : BitVec 6) : BitVec 64 :=
  ofBits 64 fun i =>
    if i % 4 = 0 then rk.2.getLsbD (i / 4)
    else if i % 4 = 1 then rk.1.getLsbD (i / 4)
    else if i % 4 = 3 then giftConstBit 64 c (i / 4)
    else false

/-- What AddRoundKey XORs into a GIFT-128 state: V[i] at bit 4i+1, U[i] at 4i+2, the constants at
4i+3 (R513). -/
def giftRoundMask128 (rk : BitVec 32 × BitVec 32) (c : BitVec 6) : BitVec 128 :=
  ofBits 128 fun i =>
    if i % 4 = 1 then rk.2.getLsbD (i / 4)
    else if i % 4 = 2 then rk.1.getLsbD (i / 4)
    else if i % 4 = 3 then giftConstBit 128 c (i / 4)
    else false

/-- AddRoundKey_64 (R513). -/
def giftAddRoundKey64 (b : BitVec 64) (rk : BitVec 16 × BitVec 16) (c : BitVec 6) : BitVec 64 :=
  b ^^^ giftRoundMask64 rk c

/-- AddRoundKey_128 (R513). -/
def giftAddRoundKey128 (b : BitVec 128) (rk : BitVec 32 × BitVec 32) (c : BitVec 6) : BitVec 128 :=
  b ^^^ giftRoundMask128 rk c

/-! ### Encryption and decryption (R520, R521) -/

/-- One round of GIFT-64: SubCells, PermBits, AddRoundKey (R520). -/
def giftRound64 (b : BitVec 64) (r : (BitVec 16 × BitVec 16) × BitVec 6) : BitVec 64 :=
  giftAddRoundKey64 (giftPermBits (giftSubCells b)) r.1 r.2

/-- One decryption round of GIFT-64 (R521). -/
def giftInvRound64 (r : (BitVec 16 × BitVec 16) × BitVec 6) (b : BitVec 64) : BitVec 64 :=
  giftInvSubCells (giftInvPermBits (giftAddRoundKey64 b r.1 r.2))

/-- One round of GIFT-128: SubCells, PermBits, AddRoundKey (R520). -/
def giftRound128 (b : BitVec 128) (r : (BitVec 32 × BitVec 32) × BitVec 6) : BitVec 128 :=
  giftAddRoundKey128 (giftPermBits (giftSubCells b)) r.1 r.2

/-- One decryption round of GIFT-128 (R521). -/
def giftInvRound128 (r : (BitVec 32 × BitVec 32) × BitVec 6) (b : BitVec 128) : BitVec 128 :=
  giftInvSubCells (giftInvPermBits (giftAddRoundKey128 b r.1 r.2))

/-- The round keys with their round constants, first round first (R514, R520). -/
def giftRounds64 (k : Block) : List ((BitVec 16 × BitVec 16) × BitVec 6) :=
  (giftRoundKeys64 k).zip (roundConstants 28)

/-- The round keys with their round constants, first round first (R514, R520). -/
def giftRounds128 (k : Block) : List ((BitVec 32 × BitVec 32) × BitVec 6) :=
  (giftRoundKeys128 k).zip (roundConstants 40)

/-- `GIFT_ENC_64(P, K)`, 28 rounds (R520). -/
def giftEnc64 (p : BitVec 64) (k : Block) : BitVec 64 := (giftRounds64 k).foldl giftRound64 p

/-- `GIFT_DEC_64(C, K)`: the round keys generated forward and consumed last to first (R521). -/
def giftDec64 (c : BitVec 64) (k : Block) : BitVec 64 := (giftRounds64 k).foldr giftInvRound64 c

/-- `GIFT_ENC_128(P, K)`, 40 rounds (R520). -/
def giftEnc128 (p k : Block) : Block := (giftRounds128 k).foldl giftRound128 p

/-- `GIFT_DEC_128(C, K)`: the round keys generated forward and consumed last to first (R521). -/
def giftDec128 (c k : Block) : Block := (giftRounds128 k).foldr giftInvRound128 c

end Sys2Proof.Machine
end

