-- ==== Sys2Proof/Machine/GiftSlicedCipher.lean ====
section
/-! DEFINITION. The GIFT-128 bit-sliced cipher over four 32-bit words (42_gift128_bitsliced.md
R600-R632), the block cipher of GIFT-COFB. -/

namespace Sys2Proof.Machine

open Sys2Proof

/-- The packed state S0, S1, S2, S3 (R600). -/
structure Slices where
  s0 : Word
  s1 : Word
  s2 : Word
  s3 : Word
  deriving DecidableEq, Repr

/-- `slice(b)`: `Sw[j] = b[4j + w]` (R600, R601). -/
def slice (b : Block) : Slices where
  s0 := ofBits 32 fun j => b.getLsbD (4 * j)
  s1 := ofBits 32 fun j => b.getLsbD (4 * j + 1)
  s2 := ofBits 32 fun j => b.getLsbD (4 * j + 2)
  s3 := ofBits 32 fun j => b.getLsbD (4 * j + 3)

/-- `unslice(S0, S1, S2, S3)`, the inverse of slice (R601). -/
def unslice (s : Slices) : Block :=
  ofBits 128 fun i =>
    if i % 4 = 0 then s.s0.getLsbD (i / 4)
    else if i % 4 = 1 then s.s1.getLsbD (i / 4)
    else if i % 4 = 2 then s.s2.getLsbD (i / 4)
    else s.s3.getLsbD (i / 4)

/-- `words(X)`: four words, the first the most significant (R602). -/
def blockWords (x : Block) : Slices :=
  ⟨x.extractLsb' 96 32, x.extractLsb' 64 32, x.extractLsb' 32 32, x.extractLsb' 0 32⟩

/-- `unwords`, the inverse of words (R602). -/
def unwords (s : Slices) : Block := s.s0 ++ s.s1 ++ s.s2 ++ s.s3

/-- The loading of BS_LOADING (R603). -/
def bsLoad : BsLoading → Block → Slices
  | .equiv, x => slice x
  | .sliced, x => blockWords x

/-- The output of BS_LOADING (R603). -/
def bsUnload : BsLoading → Slices → Block
  | .equiv, s => unslice s
  | .sliced, s => unwords s

/-- Bit-sliced SubCells, the eight gates in the order of R610. -/
def bsSubCells (s : Slices) : Slices :=
  let s1 := s.s1 ^^^ (s.s0 &&& s.s2)
  let s0 := s.s0 ^^^ (s1 &&& s.s3)
  let s2 := s.s2 ^^^ (s0 ||| s1)
  let s3 := s.s3 ^^^ s2
  let s1 := s1 ^^^ s3
  let s3 := ~~~s3
  let s2 := s2 ^^^ (s0 &&& s1)
  ⟨s3, s1, s2, s0⟩

/-- Bit-sliced InvSubCells, the gates of R610 in reverse order (R611). -/
def bsInvSubCells (s : Slices) : Slices :=
  let s0 := s.s3
  let s3 := s.s0
  let s2 := s.s2 ^^^ (s0 &&& s.s1)
  let s3 := ~~~s3
  let s1 := s.s1 ^^^ s3
  let s3 := s3 ^^^ s2
  let s2 := s2 ^^^ (s0 ||| s1)
  let s0 := s0 ^^^ (s1 &&& s3)
  let s1 := s1 ^^^ (s0 &&& s2)
  ⟨s0, s1, s2, s3⟩

/-- `Q_w(j) = floor(j/4) + 8·((w - (j mod 4)) mod 4)` for w in 0..3 (R612). -/
def wordPerm (w j : Nat) : Nat := j / 4 + 8 * ((w + 4 - j % 4) % 4)

/-- The bit that `Q_w` moves to bit t: the inverse of the formula of R612. -/
def wordPermInv (w t : Nat) : Nat := 4 * (t % 8) + (w + 4 - t / 8) % 4

/-- `PermWord_w(x) = x'` with `x'[Q_w(j)] = x[j]` (R612). -/
def permWord (w : Nat) (x : Word) : Word := ofBits 32 fun t => x.getLsbD (wordPermInv w t)

/-- `InvPermWord_w(x') = x` with `x[j] = x'[Q_w(j)]` (R613). -/
def invPermWord (w : Nat) (x : Word) : Word := ofBits 32 fun j => x.getLsbD (wordPerm w j)

/-- Bit-sliced PermBits: each word on its own (R612). -/
def bsPermBits (s : Slices) : Slices :=
  ⟨permWord 0 s.s0, permWord 1 s.s1, permWord 2 s.s2, permWord 3 s.s3⟩

/-- Bit-sliced InvPermBits (R613). -/
def bsInvPermBits (s : Slices) : Slices :=
  ⟨invPermWord 0 s.s0, invPermWord 1 s.s1, invPermWord 2 s.s2, invPermWord 3 s.s3⟩

/-- Bit-sliced AddRoundKey (R614). -/
def bsAddRoundKey (s : Slices) (rk : BitVec 32 × BitVec 32) (c : BitVec 6) : Slices :=
  ⟨s.s0, s.s1 ^^^ rk.2, s.s2 ^^^ rk.1, s.s3 ^^^ (0x80000000#32 ^^^ c.setWidth 32)⟩

/-- One round of the encryption core (R620). -/
def bsRound (s : Slices) (r : (BitVec 32 × BitVec 32) × BitVec 6) : Slices :=
  bsAddRoundKey (bsPermBits (bsSubCells s)) r.1 r.2

/-- One round of the decryption core (R621). -/
def bsInvRound (r : (BitVec 32 × BitVec 32) × BitVec 6) (s : Slices) : Slices :=
  bsInvSubCells (bsInvPermBits (bsAddRoundKey s r.1 r.2))

/-- `BS_CORE_ENC(S0..S3, K)`; the key schedule is the one of GIFT-128 (R615, R620). -/
def bsCoreEnc (s : Slices) (k : Block) : Slices := (giftRounds128 k).foldl bsRound s

/-- `BS_CORE_DEC(S0..S3, K)` (R621). -/
def bsCoreDec (s : Slices) (k : Block) : Slices := (giftRounds128 k).foldr bsInvRound s

/-- `GIFT_BS_ENC(X, K)` under a loading (R622). -/
def giftBsEnc (loading : BsLoading) (x k : Block) : Block :=
  bsUnload loading (bsCoreEnc (bsLoad loading x) k)

/-- `GIFT_BS_DEC(X, K)` under a loading (R622). -/
def giftBsDec (loading : BsLoading) (x k : Block) : Block :=
  bsUnload loading (bsCoreDec (bsLoad loading x) k)

/-- The transposition `T(X) = unslice(words(X))` (R631). -/
def bsTranspose (x : Block) : Block := unslice (blockWords x)

/-- `Tinv(b) = unwords(slice(b))` (R631). -/
def bsTransposeInv (b : Block) : Block := unwords (slice b)

end Sys2Proof.Machine
end

