-- ==== Sys2Proof/Machine/CofbMode.lean ====
section
/-! DEFINITION. The GIFT-COFB algorithm (44_gift_cofb.md R800-R815). Associated data and message are
nibble strings, split by 40_primitives.md R431. -/

namespace Sys2Proof.Machine

open Sys2Proof

/-- The direction of an AEAD pass: encryption, or verification and decryption. -/
inductive Direction where
  | encrypt
  | decrypt
  deriving DecidableEq, Repr

/-- G swaps the two halves of Y and rotates the now-second half left by 1 bit (R802). -/
def cofbG (y : Block) : Block := y.extractLsb' 0 64 ++ rotl (y.extractLsb' 64 64) 1

/-- `ρ1(Y, M) = G(Y) ^ M` (R803). -/
def cofbRho1 (y m : Block) : Block := cofbG y ^^^ m

/-- `ρ(Y, M)`: the next cipher input before masking, and the ciphertext (R803). -/
def cofbRho (y m : Block) : Block × Block := (cofbRho1 y m, y ^^^ m)

/-- `ρ'(Y, C)`: the next cipher input before masking, and the plaintext (R803). -/
def cofbRhoInv (y c : Block) : Block × Block := (cofbRho1 y (y ^^^ c), y ^^^ c)

/-- The mask Δ as it is XORed into the cipher input: `Δ || 0^64` (R804). -/
def cofbMask (delta : BitVec 64) : Block := delta ++ 0#64

/-- The cipher input of a block: `ρ1(Y, blk) ^ (Δ || 0^64)` (R810). -/
def cofbInput (y : Block) (delta : BitVec 64) (m : List Nibble) : Block :=
  cofbRho1 y (blk m) ^^^ cofbMask delta

/-- The mask update at the last block of an input: triple, triple again if the block is partial or
empty, and Δ·9 if the associated data is followed by no message (R810, R811). -/
def cofbLastMask (len : Nat) (noMessage : Bool) (delta : BitVec 64) : BitVec 64 :=
  let d1 := triple delta
  let d2 := if len < 32 then triple d1 else d1
  if noMessage then triple (triple d2) else d2

/-- The associated-data blocks: double at each block but the last (R810 steps 2 and 3). -/
def cofbAdPass (e : Block → Block) (noMessage : Bool) :
    List (List Nibble) → Block → BitVec 64 → Block × BitVec 64
  | [], y, delta => (y, delta)
  | [a], y, delta =>
    let d := cofbLastMask a.length noMessage delta
    (e (cofbInput y d a), d)
  | a :: b :: rest, y, delta =>
    let d := double delta
    cofbAdPass e noMessage (b :: rest) (e (cofbInput y d a)) d

/-- The plaintext of a message block: the block itself when encrypting, the block XOR the truncated Y
when decrypting (R810, R812). -/
def cofbPlain (dir : Direction) (y : Block) (m : List Nibble) : List Nibble :=
  match dir with
  | .encrypt => m
  | .decrypt => xorTrunc m y

/-- The message blocks: the output string and the final Y (R810 steps 4 to 6, R812). -/
def cofbMessagePass (e : Block → Block) (dir : Direction) :
    List (List Nibble) → Block → BitVec 64 → List Nibble × Block
  | [], y, _ => ([], y)
  | [m], y, delta =>
    let d := cofbLastMask m.length false delta
    (xorTrunc m y, e (cofbInput y d (cofbPlain dir y m)))
  | m :: m' :: rest, y, delta =>
    let d := double delta
    let next := cofbMessagePass e dir (m' :: rest) (e (cofbInput y d (cofbPlain dir y m))) d
    (xorTrunc m y ++ next.1, next.2)

/-- GIFT-COFB over a block cipher E with the key in it (R810, R812): the output string and the tag. -/
def cofb (e : Block → Block) (dir : Direction) (nonce : Block) (ad msg : List Nibble) :
    List Nibble × Block :=
  let y0 := e nonce
  let afterAd := cofbAdPass e (decide (msg.length = 0)) (split ad) y0 (y0.extractLsb' 64 64)
  if msg.length = 0 then ([], afterAd.1)
  else cofbMessagePass e dir (split msg) afterAd.1 afterAd.2

/-- `COFB_ENC(K, N, A, La, M, Lm)` with E of R801 (R810). -/
def cofbEncrypt (loading : BsLoading) (k nonce : Block) (ad msg : List Nibble) :
    List Nibble × Block :=
  cofb (fun x => giftBsEnc loading x k) .encrypt nonce ad msg

/-- `COFB_DEC(K, N, A, La, C, Lm)`, which also uses only E (R801, R812). -/
def cofbDecrypt (loading : BsLoading) (k nonce : Block) (ad ct : List Nibble) :
    List Nibble × Block :=
  cofb (fun x => giftBsEnc loading x k) .decrypt nonce ad ct

end Sys2Proof.Machine
end

