-- ==== Sys2Proof/Machine/SkinnyCipher.lean ====
section
/-! DEFINITION. The SKINNY cipher, parameterised by block size n, tweakey count z and round count R
(43_skinny.md R700-R722). The n-bit state and each tweakey array hold 16 cells of n/16 bits, cell 0 the
most significant (R701). -/

namespace Sys2Proof.Machine

open Sys2Proof

/-- The block size n in bits (R700). -/
abbrev blockBits : BlockSize → Nat
  | .n64 => 64
  | .n128 => 128

/-- The cell width c = n/16 in bits (R701). -/
abbrev cellBits : BlockSize → Nat
  | .n64 => 4
  | .n128 => 8

/-- The standard round count of (n, z), z in 1..3 (R700). -/
def stdRounds : BlockSize → Nat → Nat
  | .n64, z => if z = 1 then 32 else if z = 2 then 36 else 40
  | .n128, z => if z = 1 then 40 else if z = 2 then 48 else 56

/-- Cell i of a state or tweakey array, `v[n-1-c·i : n-c·(i+1)]` (R701). -/
def skCell (n : BlockSize) (v : BitVec (blockBits n)) (i : Nat) : BitVec (cellBits n) :=
  v.extractLsb' (cellBits n * (15 - i)) (cellBits n)

/-- The n-bit value whose cell i is `f i` (R701). -/
def skPack (n : BlockSize) (f : Nat → BitVec (cellBits n)) : BitVec (blockBits n) :=
  ofCells (blockBits n) fun j => f (15 - j)

/-! ### S-boxes (R702-R705) -/

/-- Entry x of a 256-entry table of bytes written as 16 rows of 16 bytes, as R703 prints it. -/
def byteTable (rows : List Block) (x : Byte) : Byte :=
  (rows.getD (x.toNat / 16) 0#128).extractLsb' (8 * (15 - x.toNat % 16)) 8

/-- S4 (R702). -/
def skSbox4 (x : Nibble) : Nibble := nibbleTable 0xC6901A2B385D4E7F#64 x

/-- S4_INV (R702). -/
def skSbox4Inv (x : Nibble) : Nibble := nibbleTable 0x3468CA1E92570BDF#64 x

/-- The table of S8, row by row (R703). -/
def skSbox8Rows : List Block :=
  [0x654C6A424B63436B55755A7A53735B7B#128, 0x358C3A818933803B9525982A9023992B#128,
    0xE5CCE8C1C9E0C0E9D5F5D8F8D0F0D9F9#128, 0xA51CA8121BA013A905B50AB803B00BB9#128,
    0x32883C858D34843D91229C2C94249D2D#128, 0x624A6C454D64446D52725C7C54745D7D#128,
    0xA11AAC151DA414AD02B10CBC04B40DBD#128, 0xE1C8ECC5CDE4C4EDD1F1DCFCD4F4DDFD#128,
    0x368E38828B30833996269A2893209B29#128, 0x664E6841496040695676587850705979#128,
    0xA61EAA1119A310AB06B608BA00B309BB#128, 0xE6CEEAC2CBE3C3EBD6F6DAFAD3F3DBFB#128,
    0x318A3E868F37873F92219E2E97279F2F#128, 0x61486E464F67476F51715E7E57775F7F#128,
    0xA218AE161FA717AF01B20EBE07B70FBF#128, 0xE2CAEEC6CFE7C7EFD2F2DEFED7F7DFFF#128]

/-- S8 (R703), by its table; `skSbox8Circuit` is the circuit that the table comes from. -/
def skSbox8 (x : Byte) : Byte := byteTable skSbox8Rows x

/-- The table of S8_INV, row by row (R704). -/
def skSbox8InvRows : List Block :=
  [0xACE8683C6C38A8ECAAAE3A3E6A6EEAEE#128, 0xA6A333366663E3E6E1A461343164A1E4#128,
    0x8DC9491D4D1989CD8B8F1B1F4B4FCBCF#128, 0x85C04015451080C5828712174247C2C7#128,
    0x969303065653D3D6D1945104015491D4#128, 0x9CD8580C5C0898DC9A9E0A0E5A5EDADE#128,
    0x95D05005550090D5929702075257D2D7#128, 0x9DD9590D5D0999DD9B9F0B0F5B5FDBDF#128,
    0x161383864643C3C64114C184114481C4#128, 0x1C48C88C4C1888CC1A1E8A8E4A4ECACE#128,
    0x3560E0A56530A0E53237A2A76267E2E7#128, 0x3D69E9AD6D39A9ED3B3FABAF6B6FEBEF#128,
    0x2623B3B67673F3F67124F1B42174B1F4#128, 0x2C78F8BC7C28B8FC2A2EBABE7A7EFAFE#128,
    0x2570F0B57520B0F52227B2B77277F2F7#128, 0x2D79F9BD7D29B9FD2B2FBBBF7B7FFBFF#128]

/-- S8_INV (R704). -/
def skSbox8Inv (x : Byte) : Byte := byteTable skSbox8InvRows x

/-- The NOR-XOR step of one iteration: `x4 ^= ~(x7 | x6)`, `x0 ^= ~(x3 | x2)` (R703). -/
def skSbox8Nor (x : Byte) : Byte :=
  ofBits 8 fun i =>
    if i = 4 then x.getLsbD 4 ^^ !(x.getLsbD 7 || x.getLsbD 6)
    else if i = 0 then x.getLsbD 0 ^^ !(x.getLsbD 3 || x.getLsbD 2)
    else x.getLsbD i

/-- The bit permutation between iterations:
`(x7,x6,x5,x4,x3,x2,x1,x0) <- (x2,x1,x7,x6,x4,x0,x3,x5)` (R703). -/
def skSbox8Perm (x : Byte) : Byte :=
  ofBits 8 fun i => x.getLsbD ([5, 3, 0, 4, 6, 7, 1, 2].getD i 0)

/-- The swap of x1 and x2 after the last iteration (R703). -/
def skSbox8Swap (x : Byte) : Byte :=
  ofBits 8 fun i => x.getLsbD (if i = 1 then 2 else if i = 2 then 1 else i)

/-- The circuit that defines S8: four NOR-XOR iterations (R703). -/
def skSbox8Circuit (x : Byte) : Byte :=
  skSbox8Swap (skSbox8Nor (skSbox8Perm (skSbox8Nor (skSbox8Perm (skSbox8Nor (skSbox8Perm
    (skSbox8Nor x)))))))

/-- The S-box of a block size (R705). -/
def skSbox : (n : BlockSize) → BitVec (cellBits n) → BitVec (cellBits n)
  | .n64, x => skSbox4 x
  | .n128, x => skSbox8 x

/-- The inverse S-box of a block size (R705). -/
def skSboxInv : (n : BlockSize) → BitVec (cellBits n) → BitVec (cellBits n)
  | .n64, x => skSbox4Inv x
  | .n128, x => skSbox8Inv x

/-- SubCells (R705). -/
def skSubCells (n : BlockSize) (s : BitVec (blockBits n)) : BitVec (blockBits n) :=
  skPack n fun i => skSbox n (skCell n s i)

/-- InvSubCells (R705). -/
def skInvSubCells (n : BlockSize) (s : BitVec (blockBits n)) : BitVec (blockBits n) :=
  skPack n fun i => skSboxInv n (skCell n s i)

/-! ### AddConstants, ShiftRows, MixColumns (R706-R709) -/

/-- The constant that AddConstants XORs into cell i: `rc[3:0]` in cell 0, `rc[5:4]` in cell 4, 2 in
cell 8 (R709). -/
def skConstant (n : BlockSize) (rc : BitVec 6) (i : Nat) : BitVec (cellBits n) :=
  if i = 0 then (rc.extractLsb' 0 4).setWidth (cellBits n)
  else if i = 4 then (rc.extractLsb' 4 2).setWidth (cellBits n)
  else if i = 8 then (0x2#4).setWidth (cellBits n)
  else 0#(cellBits n)

/-- AddConstants, its own inverse (R709). -/
def skAddConstants (n : BlockSize) (s : BitVec (blockBits n)) (rc : BitVec 6) :
    BitVec (blockBits n) :=
  skPack n fun i => skCell n s i ^^^ skConstant n rc i

/-- SR: `new cell_i = old cell_{SR[i]}` (R706). -/
def skShiftIndex : List Nat := [0, 1, 2, 3, 7, 4, 5, 6, 10, 11, 8, 9, 13, 14, 15, 12]

/-- SR_INV (R706). -/
def skShiftIndexInv : List Nat := [0, 1, 2, 3, 5, 6, 7, 4, 10, 11, 8, 9, 15, 12, 13, 14]

/-- ShiftRows: row r rotates right by r cells (R706). -/
def skShiftRows (n : BlockSize) (s : BitVec (blockBits n)) : BitVec (blockBits n) :=
  skPack n fun i => skCell n s (skShiftIndex.getD i 0)

/-- InvShiftRows (R706). -/
def skInvShiftRows (n : BlockSize) (s : BitVec (blockBits n)) : BitVec (blockBits n) :=
  skPack n fun i => skCell n s (skShiftIndexInv.getD i 0)

/-- MixColumns: (a, b, c, d) to (a^c^d, a, b^c, a^c) in each column (R707). -/
def skMixColumns (n : BlockSize) (s : BitVec (blockBits n)) : BitVec (blockBits n) :=
  skPack n fun i =>
    let a := skCell n s (i % 4)
    let b := skCell n s (i % 4 + 4)
    let c := skCell n s (i % 4 + 8)
    let d := skCell n s (i % 4 + 12)
    if i / 4 = 0 then a ^^^ c ^^^ d
    else if i / 4 = 1 then a
    else if i / 4 = 2 then b ^^^ c
    else a ^^^ c

/-- InvMixColumns: (a, b, c, d) to (b, b^c^d, b^d, a^d) in each column (R708). -/
def skInvMixColumns (n : BlockSize) (s : BitVec (blockBits n)) : BitVec (blockBits n) :=
  skPack n fun i =>
    let a := skCell n s (i % 4)
    let b := skCell n s (i % 4 + 4)
    let c := skCell n s (i % 4 + 8)
    let d := skCell n s (i % 4 + 12)
    if i / 4 = 0 then b
    else if i / 4 = 1 then b ^^^ c ^^^ d
    else if i / 4 = 2 then b ^^^ d
    else a ^^^ d

/-! ### Tweakey schedule (R710-R715) -/

/-- The tweakey arrays TK1, TK2, TK3 (R710). Only the first z are active. -/
structure Tweakey (n : BlockSize) where
  tk1 : BitVec (blockBits n)
  tk2 : BitVec (blockBits n)
  tk3 : BitVec (blockBits n)
  deriving DecidableEq, Repr

/-- Tweakey array t = 1..3 of a 384-bit value: bits `[383 - n·(t-1) : 384 - n·t]` (R710). -/
def skTweakeyArray (n : BlockSize) (bits : BitVec 384) (t : Nat) : BitVec (blockBits n) :=
  bits.extractLsb' (384 - blockBits n * t) (blockBits n)

/-- Tweakey loading from the first z·n bits of a 384-bit value (R710). An array that is not active is
loaded as 0 and never used. -/
def skLoadTweakey (n : BlockSize) (z : Nat) (bits : BitVec 384) : Tweakey n where
  tk1 := skTweakeyArray n bits 1
  tk2 := if 2 ≤ z then skTweakeyArray n bits 2 else 0#(blockBits n)
  tk3 := if 3 ≤ z then skTweakeyArray n bits 3 else 0#(blockBits n)

/-- The round tweakey: cells 0..7 of the XOR of the active arrays (R711, R715). -/
def skRoundTweakey (n : BlockSize) (z : Nat) (tk : Tweakey n) (i : Nat) : BitVec (cellBits n) :=
  if i < 8 then
    skCell n tk.tk1 i ^^^ (if 2 ≤ z then skCell n tk.tk2 i else 0#(cellBits n)) ^^^
      (if 3 ≤ z then skCell n tk.tk3 i else 0#(cellBits n))
  else 0#(cellBits n)

/-- PT: `new TK_i = old TK_{PT[i]}` (R712). -/
def skTweakeyIndex : List Nat := [9, 15, 8, 13, 10, 14, 12, 11, 0, 1, 2, 3, 4, 5, 6, 7]

/-- The tweakey cell permutation P_T (R712). -/
def skPermuteTweakey (n : BlockSize) (tk : BitVec (blockBits n)) : BitVec (blockBits n) :=
  skPack n fun i => skCell n tk (skTweakeyIndex.getD i 0)

/-- The TK2 LFSR on one cell (R713). -/
def skLfsr2 : (n : BlockSize) → BitVec (cellBits n) → BitVec (cellBits n)
  | .n64, x => (x <<< 1) ||| (BitVec.ofBool (x.getLsbD 3 ^^ x.getLsbD 2)).setWidth 4
  | .n128, x => (x <<< 1) ||| (BitVec.ofBool (x.getLsbD 7 ^^ x.getLsbD 5)).setWidth 8

/-- The TK3 LFSR on one cell (R714). -/
def skLfsr3 : (n : BlockSize) → BitVec (cellBits n) → BitVec (cellBits n)
  | .n64, x => (x >>> 1) ||| ((BitVec.ofBool (x.getLsbD 0 ^^ x.getLsbD 3)).setWidth 4 <<< 3)
  | .n128, x => (x >>> 1) ||| ((BitVec.ofBool (x.getLsbD 0 ^^ x.getLsbD 6)).setWidth 8 <<< 7)

/-- An LFSR applied to cells 0..7 of an array (R713, R714). -/
def skMapTopRows (n : BlockSize) (f : BitVec (cellBits n) → BitVec (cellBits n))
    (tk : BitVec (blockBits n)) : BitVec (blockBits n) :=
  skPack n fun i => if i < 8 then f (skCell n tk i) else skCell n tk i

/-- One update of the arrays: P_T on each, then the TK2 LFSR on TK2 and the TK3 LFSR on TK3
(R712-R715). -/
def skUpdateTweakey (n : BlockSize) (tk : Tweakey n) : Tweakey n where
  tk1 := skPermuteTweakey n tk.tk1
  tk2 := skMapTopRows n (skLfsr2 n) (skPermuteTweakey n tk.tk2)
  tk3 := skMapTopRows n (skLfsr3 n) (skPermuteTweakey n tk.tk3)

/-- The arrays of `rounds` rounds from `tk` on: entry r is `tk` after r updates (R715). -/
def skTweakeyStates (n : BlockSize) : Nat → Tweakey n → List (Tweakey n)
  | 0, _ => []
  | rounds + 1, tk => tk :: skTweakeyStates n rounds (skUpdateTweakey n tk)

/-- AddRoundTweakey: the round tweakey into rows 0 and 1 of the state (R711). -/
def skAddRoundTweakey (n : BlockSize) (z : Nat) (s : BitVec (blockBits n)) (tk : Tweakey n) :
    BitVec (blockBits n) :=
  skPack n fun i => skCell n s i ^^^ skRoundTweakey n z tk i

/-! ### Encryption and decryption (R720, R721) -/

/-- One round: SubCells, AddConstants, AddRoundTweakey, ShiftRows, MixColumns (R720). -/
def skRound (n : BlockSize) (z : Nat) (s : BitVec (blockBits n)) (r : Tweakey n × BitVec 6) :
    BitVec (blockBits n) :=
  skMixColumns n (skShiftRows n (skAddRoundTweakey n z (skAddConstants n (skSubCells n s) r.2) r.1))

/-- One decryption round: the inverse of each step in reverse order (R721). -/
def skInvRound (n : BlockSize) (z : Nat) (r : Tweakey n × BitVec 6) (s : BitVec (blockBits n)) :
    BitVec (blockBits n) :=
  skInvSubCells n (skAddConstants n (skAddRoundTweakey n z (skInvShiftRows n (skInvMixColumns n s))
    r.1) r.2)

/-- The tweakey arrays of each round with its round constant, first round first (R715, R709). -/
def skRounds (n : BlockSize) (z rounds : Nat) (bits : BitVec 384) : List (Tweakey n × BitVec 6) :=
  (skTweakeyStates n rounds (skLoadTweakey n z bits)).zip (roundConstants rounds)

/-- `SKINNY_ENC(P, TK, n, z, R)`, the tweakey in the first z·n bits of `bits` (R720). -/
def skinnyEncrypt (n : BlockSize) (z rounds : Nat) (bits : BitVec 384) (p : BitVec (blockBits n)) :
    BitVec (blockBits n) :=
  (skRounds n z rounds bits).foldl (skRound n z) p

/-- `SKINNY_DEC(C, TK, n, z, R)`: all round tweakeys forward, consumed last to first (R721). -/
def skinnyDecrypt (n : BlockSize) (z rounds : Nat) (bits : BitVec 384) (c : BitVec (blockBits n)) :
    BitVec (blockBits n) :=
  (skRounds n z rounds bits).foldr (skInvRound n z) c

end Sys2Proof.Machine
end

