-- ==== Sys2Proof/Machine/SkinnyAeadMode.lean ====
section
/-! DEFINITION. The SKINNY-AEAD algorithm, members M1 to M4 (45_skinny_aead.md R900-R917), on
SKINNY-128-384 with 56 rounds (R901). -/

namespace Sys2Proof.Machine

open Sys2Proof

/-- The roles of the domain-separation byte, with the indices of R904. -/
inductive Role where
  /-- role 0, a full message block. -/
  | plaintextFull
  /-- role 1, a partial last message block. -/
  | plaintextPartial
  /-- role 2, a full associated-data block. -/
  | adFull
  /-- role 3, a partial last associated-data block. -/
  | adPartial
  /-- role 4, the tag from an empty message. -/
  | tagEmpty
  /-- role 5, the tag from a message. -/
  | tagNonEmpty
  deriving DecidableEq, Repr

/-- The index of a role (R904). -/
def roleIndex : Role → Byte
  | .plaintextFull => 0#8
  | .plaintextPartial => 1#8
  | .adFull => 2#8
  | .adPartial => 3#8
  | .tagEmpty => 4#8
  | .tagNonEmpty => 5#8

/-- `MB(member)`, the member bits of the parameter SKAEAD_MEMBER_BITS (R903). -/
def memberByte (bits : MemberBits) : Member → Byte
  | .m1 => bits.m1
  | .m2 => bits.m2
  | .m3 => bits.m3
  | .m4 => bits.m4

/-- The nonce NN: all 128 bits for M1 and M3, the first 96 bits and 32 zero bits for M2 and M4
(R902, 10_state.md R131). -/
def memberNonce (member : Member) (nonce : Block) : Block :=
  match member with
  | .m1 => nonce
  | .m3 => nonce
  | .m2 => nonce.extractLsb' 32 96 ++ 0#32
  | .m4 => nonce.extractLsb' 32 96 ++ 0#32

/-- `TKA(lfsr, d)`: the 384-bit tweakey (R902). -/
def skaeadTweakey (lfsr : BitVec 64) (d : Byte) (nn k : Block) : BitVec 384 :=
  byterev64 lfsr ++ 0#56 ++ d ++ nn ++ k

/-- What every block-cipher call of one command shares: the member bits, the nonce NN and the key. -/
structure SkaeadContext where
  memberBits : Byte
  nn : Block
  k : Block
  deriving DecidableEq, Repr

/-- The tweakey of one call: counter value and role (R902, R903). -/
def skaeadCallTweakey (x : SkaeadContext) (lfsr : BitVec 64) (role : Role) : BitVec 384 :=
  skaeadTweakey lfsr (x.memberBits ||| roleIndex role) x.nn x.k

/-- `E_TK`: SKINNY-128-384 encryption, 56 rounds (R901). -/
def skaeadE (x : SkaeadContext) (lfsr : BitVec 64) (role : Role) (m : Block) : Block :=
  skinnyEncrypt .n128 3 56 (skaeadCallTweakey x lfsr role) m

/-- `D_TK`: SKINNY-128-384 decryption, 56 rounds (R901). -/
def skaeadD (x : SkaeadContext) (lfsr : BitVec 64) (role : Role) (c : Block) : Block :=
  skinnyDecrypt .n128 3 56 (skaeadCallTweakey x lfsr role) c

/-- What the message pass leaves: the output string, the checksum sigma, the counter, and whether the
last block was partial (R910, R913). -/
structure SkaeadPass where
  out : List Nibble
  sigma : Block
  lfsr : BitVec 64
  lastPartial : Bool
  deriving DecidableEq, Repr

/-- The output of one message block: through E or D for a full block, XOR the truncated keystream for
a partial one (R910, R913). -/
def skaeadBlockOut (x : SkaeadContext) (dir : Direction) (lfsr : BitVec 64) (m : List Nibble) :
    List Nibble :=
  if m.length = 32 then
    match dir with
    | .encrypt => blockNibbles (skaeadE x lfsr .plaintextFull (packNibbles m))
    | .decrypt => blockNibbles (skaeadD x lfsr .plaintextFull (packNibbles m))
  else xorTrunc m (skaeadE x lfsr .plaintextPartial 0#128)

/-- The plaintext of a message block: its input when encrypting, its output when decrypting. -/
def skaeadBlockPlain (x : SkaeadContext) (dir : Direction) (lfsr : BitVec 64) (m : List Nibble) :
    List Nibble :=
  match dir with
  | .encrypt => m
  | .decrypt => skaeadBlockOut x dir lfsr m

/-- The message pass over the blocks of `split` (R910, R913, R916): sigma takes every plaintext block,
padded if partial, and every block advances the counter. -/
def skaeadMessagePass (x : SkaeadContext) (dir : Direction) :
    List (List Nibble) → BitVec 64 → Block → Bool → SkaeadPass
  | [], lfsr, sigma, lastPartial => ⟨[], sigma, lfsr, lastPartial⟩
  | m :: rest, lfsr, sigma, lastPartial =>
    let next := skaeadMessagePass x dir rest (lfsrNext lfsr)
      (sigma ^^^ blk (skaeadBlockPlain x dir lfsr m)) (lastPartial || decide (m.length ≠ 32))
    { next with out := skaeadBlockOut x dir lfsr m ++ next.out }

/-- The associated-data pass over the blocks of `split`: the accumulator auth (R910 step 3). -/
def skaeadAdPass (x : SkaeadContext) : List (List Nibble) → BitVec 64 → Block → Block
  | [], _, auth => auth
  | a :: rest, lfsr, auth =>
    skaeadAdPass x rest (lfsrNext lfsr)
      (auth ^^^ skaeadE x lfsr (if a.length = 32 then .adFull else .adPartial) (blk a))

/-- `TAGDOM(Lm, last_partial)` under SKAEAD_TAG_RULE (R915). -/
def skaeadTagRole (rule : TagRule) (len : Nat) (lastPartial : Bool) : Role :=
  match rule with
  | .doc => if len = 0 then .tagEmpty else .tagNonEmpty
  | .published => if lastPartial then .tagNonEmpty else .tagEmpty

/-- SKINNY-AEAD: the output string and the 128-bit tag before truncation (R910, R913). The counter
starts at 1 for each pass (R905). -/
def skaead (x : SkaeadContext) (rule : TagRule) (dir : Direction) (ad msg : List Nibble) :
    List Nibble × Block :=
  let pass :=
    if msg.length = 0 then ⟨[], 0#128, 1#64, false⟩
    else skaeadMessagePass x dir (split msg) 1#64 0#128 false
  let t := skaeadE x pass.lfsr (skaeadTagRole rule msg.length pass.lastPartial) pass.sigma
  let auth := if ad.length = 0 then 0#128 else skaeadAdPass x (split ad) 1#64 0#128
  (pass.out, t ^^^ auth)

/-- A SKINNY-AEAD tag: 128 bits for M1 and M2, 64 bits for M3 and M4 (R900). -/
inductive SkaeadTag where
  | full (t : Block)
  | short (t : BitVec 64)
  deriving DecidableEq, Repr

/-- Truncation of the tag to the member's width: the first 64 bits for M3 and M4 (R900, R910). -/
def skaeadTruncate (member : Member) (t : Block) : SkaeadTag :=
  match member with
  | .m1 => .full t
  | .m2 => .full t
  | .m3 => .short (t.extractLsb' 64 64)
  | .m4 => .short (t.extractLsb' 64 64)

/-- The context of a command (R902, R903). -/
def skaeadContext (bits : MemberBits) (member : Member) (k nonce : Block) : SkaeadContext :=
  ⟨memberByte bits member, memberNonce member nonce, k⟩

/-- `SKAEAD_ENC(member, K, NN, A, La, M, Lm)` (R910). -/
def skaeadEncrypt (bits : MemberBits) (rule : TagRule) (member : Member) (k nonce : Block)
    (ad msg : List Nibble) : List Nibble × SkaeadTag :=
  let r := skaead (skaeadContext bits member k nonce) rule .encrypt ad msg
  (r.1, skaeadTruncate member r.2)

/-- `SKAEAD_DEC(member, K, NN, A, La, C, Lm)` (R913). -/
def skaeadDecrypt (bits : MemberBits) (rule : TagRule) (member : Member) (k nonce : Block)
    (ad ct : List Nibble) : List Nibble × SkaeadTag :=
  let r := skaead (skaeadContext bits member k nonce) rule .decrypt ad ct
  (r.1, skaeadTruncate member r.2)

end Sys2Proof.Machine
end

