-- ==== Sys2Proof/Machine/Operands.lean ====
section
/-! DEFINITION. The implicit operands of the commands (30_encoding.md R305): the key, nonce, block and
tag registers as values (10_state.md R130-R134), the regions of BUF and their range check
(20_memory.md R220, R221). -/

namespace Sys2Proof.Machine

open Sys2Proof

/-- Four registers as one 128-bit value, register 0 most significant (20_memory.md R202). -/
def quadBits (v : Vector Word 4) : Block := v[0] ++ v[1] ++ v[2] ++ v[3]

/-- The first two of four registers as one 64-bit value (20_memory.md R202). -/
def pairBits (v : Vector Word 4) : BitVec 64 := v[0] ++ v[1]

/-- `KEYBITS = KEY0 || ... || KEY11` (10_state.md R130). -/
def keyBits (s : State) : BitVec 384 :=
  s.key[0] ++ s.key[1] ++ s.key[2] ++ s.key[3] ++ s.key[4] ++ s.key[5] ++ s.key[6] ++ s.key[7] ++
    s.key[8] ++ s.key[9] ++ s.key[10] ++ s.key[11]

/-- The 128-bit key of GIFT and of both AEADs, `KEY0 || KEY1 || KEY2 || KEY3` (10_state.md R130). -/
def key128 (s : State) : Block := s.key[0] ++ s.key[1] ++ s.key[2] ++ s.key[3]

/-- The 128-bit nonce (10_state.md R131). -/
def nonce128 (s : State) : Block := quadBits s.nonce

/-- The 128-bit input block (10_state.md R132). -/
def din128 (s : State) : Block := quadBits s.din

/-- The 64-bit input block `DIN0 || DIN1` (10_state.md R132). -/
def din64 (s : State) : BitVec 64 := pairBits s.din

/-- The 128-bit tag in TAG0..TAG3 (10_state.md R134). -/
def tag128 (s : State) : Block := quadBits s.tag

/-- The 64-bit tag in TAG0, TAG1 (10_state.md R134). -/
def tag64 (s : State) : BitVec 64 := pairBits s.tag

/-- The SKINNY input block (43_skinny.md R740). -/
def skinnyInput (n : BlockSize) (s : State) : BitVec (blockBits n) :=
  match n with
  | .n64 => din64 s
  | .n128 => din128 s

/-- DOUT of a SKINNY result (43_skinny.md R740). -/
def setSkinnyOutput (n : BlockSize) (y : BitVec (blockBits n)) (s : State) : State :=
  match n, y with
  | .n64, y => setDout64 y s
  | .n128, y => setDout128 y s

/-- The round count R: the field ROUNDS, or the standard count if it is 0 (30_encoding.md R303). -/
def skinnyRounds (n : BlockSize) (z rounds : Nat) : Nat :=
  if rounds ≠ 0 then rounds else stdRounds n z

/-- The range check of one region (p, L), on unbounded natural numbers (20_memory.md R221). -/
def regionOk (bufBytes p len : Nat) : Bool := len == 0 || decide (p + (len + 1) / 2 ≤ bufBytes)

/-- The range check of an AEAD command's three regions (20_memory.md R221). -/
def regionsOk (s : State) : Bool :=
  regionOk s.params.bufBytes s.adPtr.toNat s.adLen.toNat &&
    regionOk s.params.bufBytes s.msgPtr.toNat s.msgLen.toNat &&
    regionOk s.params.bufBytes s.outPtr.toNat s.msgLen.toNat

/-- The associated data, `NibRead(AD_PTR, AD_LEN)` (44_gift_cofb.md R830). -/
def adNibbles (s : State) : List Nibble := nibRead s s.adPtr.toNat s.adLen.toNat

/-- The message or ciphertext, `NibRead(MSG_PTR, MSG_LEN)` (44_gift_cofb.md R830, R831). -/
def msgNibbles (s : State) : List Nibble := nibRead s s.msgPtr.toNat s.msgLen.toNat

/-- The output string written at OUT_PTR (44_gift_cofb.md R830, R831). -/
def writeOutput (v : List Nibble) (s : State) : State := nibWrite s.outPtr.toNat v s

/-- The tag registers that a SKINNY-AEAD encryption writes (45_skinny_aead.md R930). -/
def setSkaeadTag (t : SkaeadTag) (s : State) : State :=
  match t with
  | .full t => setTag128 t s
  | .short t => setTag64 t s

/-- The expected tag of a SKINNY-AEAD decryption, on the member's width (45_skinny_aead.md R931). -/
def expectedSkaeadTag (member : Member) (s : State) : SkaeadTag :=
  match member with
  | .m1 => .full (tag128 s)
  | .m2 => .full (tag128 s)
  | .m3 => .short (tag64 s)
  | .m4 => .short (tag64 s)

end Sys2Proof.Machine
end

