-- ==== Sys2Proof/Machine/Cofb.lean ====
section
/-! DEFINITION. The commands of the GIFT-COFB engine (44_gift_cofb.md R830, R831). -/

namespace Sys2Proof.Machine

open Sys2Proof

/-- COFB.ENC: ERR_PRECOND if a region exceeds BUF, else write the ciphertext and the tag
(44_gift_cofb.md R830). -/
def execCofbEnc (s : State) : Host.Outcome State Fault Refusal :=
  if regionsOk s then
    let r := cofbEncrypt s.params.bsLoading (key128 s) (nonce128 s) (adNibbles s) (msgNibbles s)
    succeed (setTag128 r.2 (writeOutput r.1 s))
  else raiseErr .precond s

/-- COFB.DEC: ERR_PRECOND if a region exceeds BUF, ERR_AUTH if the tag differs, else write the
plaintext (44_gift_cofb.md R813, R831). -/
def execCofbDec (s : State) : Host.Outcome State Fault Refusal :=
  if regionsOk s then
    let r := cofbDecrypt s.params.bsLoading (key128 s) (nonce128 s) (adNibbles s) (msgNibbles s)
    if r.2 = tag128 s then succeed (writeOutput r.1 s) else raiseErr .auth s
  else raiseErr .precond s

end Sys2Proof.Machine
end

