-- ==== Sys2Proof/Machine/Gift.lean ====
section
/-! DEFINITION. The commands of the GIFT table-driven engine (41_gift.md R540-R544). -/

namespace Sys2Proof.Machine

open Sys2Proof

/-- GIFT64.ENC (41_gift.md R540). -/
def execGift64Enc (s : State) : Host.Outcome State Fault Refusal :=
  succeed (setDout64 (giftEnc64 (din64 s) (key128 s)) s)

/-- GIFT64.DEC (41_gift.md R541). -/
def execGift64Dec (s : State) : Host.Outcome State Fault Refusal :=
  succeed (setDout64 (giftDec64 (din64 s) (key128 s)) s)

/-- GIFT128.ENC (41_gift.md R542). -/
def execGift128Enc (s : State) : Host.Outcome State Fault Refusal :=
  succeed (setDout128 (giftEnc128 (din128 s) (key128 s)) s)

/-- GIFT128.DEC (41_gift.md R543). -/
def execGift128Dec (s : State) : Host.Outcome State Fault Refusal :=
  succeed (setDout128 (giftDec128 (din128 s) (key128 s)) s)

end Sys2Proof.Machine
end

