-- ==== Sys2Proof/Machine/GiftSliced.lean ====
section
/-! DEFINITION. The commands of the GIFT-128 bit-sliced engine (42_gift128_bitsliced.md R640, R641). -/

namespace Sys2Proof.Machine

open Sys2Proof

/-- GIFT128BS.ENC under the parameter BS_LOADING (42_gift128_bitsliced.md R640). -/
def execGift128bsEnc (s : State) : Host.Outcome State Fault Refusal :=
  succeed (setDout128 (giftBsEnc s.params.bsLoading (din128 s) (key128 s)) s)

/-- GIFT128BS.DEC under the parameter BS_LOADING (42_gift128_bitsliced.md R641). -/
def execGift128bsDec (s : State) : Host.Outcome State Fault Refusal :=
  succeed (setDout128 (giftBsDec s.params.bsLoading (din128 s) (key128 s)) s)

end Sys2Proof.Machine
end

