-- ==== Sys2Proof/Machine/Skinny.lean ====
section
/-! DEFINITION. The commands of the SKINNY engine (43_skinny.md R740, R741). -/

namespace Sys2Proof.Machine

open Sys2Proof

/-- SKINNY.ENC: ERR_CONFIG if Z = 0, else encrypt one block under the first z·n bits of KEYBITS
(43_skinny.md R740). -/
def execSkinnyEnc (n : BlockSize) (z rounds : Nat) (s : State) :
    Host.Outcome State Fault Refusal :=
  if z = 0 then raiseErr .config s
  else succeed (setSkinnyOutput n
    (skinnyEncrypt n z (skinnyRounds n z rounds) (keyBits s) (skinnyInput n s)) s)

/-- SKINNY.DEC: decoded and checked as SKINNY.ENC (43_skinny.md R741). -/
def execSkinnyDec (n : BlockSize) (z rounds : Nat) (s : State) :
    Host.Outcome State Fault Refusal :=
  if z = 0 then raiseErr .config s
  else succeed (setSkinnyOutput n
    (skinnyDecrypt n z (skinnyRounds n z rounds) (keyBits s) (skinnyInput n s)) s)

end Sys2Proof.Machine
end

