-- ==== Sys2Proof/Machine/SkinnyAead.lean ====
section
/-! DEFINITION. The commands of the SKINNY-AEAD engine (45_skinny_aead.md R930, R931). -/

namespace Sys2Proof.Machine

open Sys2Proof

/-- SKAEAD.ENC: ERR_PRECOND if a region exceeds BUF, else write the ciphertext and the tag
(45_skinny_aead.md R930). -/
def execSkaeadEnc (member : Member) (s : State) : Host.Outcome State Fault Refusal :=
  if regionsOk s then
    let r := skaeadEncrypt s.params.memberBits s.params.tagRule member (key128 s) (nonce128 s)
      (adNibbles s) (msgNibbles s)
    succeed (setSkaeadTag r.2 (writeOutput r.1 s))
  else raiseErr .precond s

/-- SKAEAD.DEC: ERR_PRECOND if a region exceeds BUF, ERR_AUTH if the tag differs, else write the
plaintext (45_skinny_aead.md R914, R931). -/
def execSkaeadDec (member : Member) (s : State) : Host.Outcome State Fault Refusal :=
  if regionsOk s then
    let r := skaeadDecrypt s.params.memberBits s.params.tagRule member (key128 s) (nonce128 s)
      (adNibbles s) (msgNibbles s)
    if r.2 = expectedSkaeadTag member s then succeed (writeOutput r.1 s) else raiseErr .auth s
  else raiseErr .precond s

end Sys2Proof.Machine
end

