-- ==== Sys2Proof/Machine/System.lean ====
section
/-! DEFINITION. The system commands NOP and CLEAR (46_system.md R1000-R1002). -/

namespace Sys2Proof.Machine

open Sys2Proof

/-- NOP: complete with no effect (46_system.md R1001). -/
def execNop (s : State) : Host.Outcome State Fault Refusal := succeed s

/-- CLEAR: zeroise every secret and data register and the whole buffer (46_system.md R1002). -/
def execClear (s : State) : Host.Outcome State Fault Refusal := succeed (clearData s)

end Sys2Proof.Machine
end

