-- ==== Sys2Proof/Machine/Dispatch.lean ====
section
/-! DEFINITION. The evaluation of a command at its completion, `Exec(w, regs, BUF)` for a word that
selects a row (46_system.md R1012): one arm per command. -/

namespace Sys2Proof.Machine

open Sys2Proof

/-- The completion step of a decoded command (46_system.md R1012, 10_state.md R162). -/
def exec (i : Instr) (s : State) : Host.Outcome State Fault Refusal :=
  match i with
  | .nop => Sys2Proof.Machine.execNop s
  | .clear => Sys2Proof.Machine.execClear s
  | .gift64Enc => Sys2Proof.Machine.execGift64Enc s
  | .gift64Dec => Sys2Proof.Machine.execGift64Dec s
  | .gift128Enc => Sys2Proof.Machine.execGift128Enc s
  | .gift128Dec => Sys2Proof.Machine.execGift128Dec s
  | .gift128bsEnc => Sys2Proof.Machine.execGift128bsEnc s
  | .gift128bsDec => Sys2Proof.Machine.execGift128bsDec s
  | .skinnyEnc n z rounds => Sys2Proof.Machine.execSkinnyEnc n z rounds s
  | .skinnyDec n z rounds => Sys2Proof.Machine.execSkinnyDec n z rounds s
  | .cofbEnc => Sys2Proof.Machine.execCofbEnc s
  | .cofbDec => Sys2Proof.Machine.execCofbDec s
  | .skaeadEnc member => Sys2Proof.Machine.execSkaeadEnc member s
  | .skaeadDec member => Sys2Proof.Machine.execSkaeadDec member s

end Sys2Proof.Machine
end

