-- ==== Sys2Proof/WellFormed.lean ====
section
/-! DEFINITION. Which terms of `Instr` a command word can carry: the two-bit Z field holds 0..3 and
the eight-bit ROUNDS field 0..255 (30_encoding.md R300, R302, R303, R341). -/

namespace Sys2Proof

/-- Z is a two-bit field (30_encoding.md R300, R302). Z = 0 is encodable: it is legal and raises
ERR_CONFIG (R321). -/
def zFits (z : Nat) : Bool := z < 4

/-- ROUNDS is an eight-bit field (30_encoding.md R300, R303). -/
def roundsFit (rounds : Nat) : Bool := rounds < 256

/-- The command can be written in a command word (30_encoding.md R300, R341). -/
def Instr.wf : Instr → Bool
  | .nop => true
  | .clear => true
  | .gift64Enc => true
  | .gift64Dec => true
  | .gift128Enc => true
  | .gift128Dec => true
  | .gift128bsEnc => true
  | .gift128bsDec => true
  | .skinnyEnc _ z rounds => zFits z && roundsFit rounds
  | .skinnyDec _ z rounds => zFits z && roundsFit rounds
  | .cofbEnc => true
  | .cofbDec => true
  | .skaeadEnc _ => true
  | .skaeadDec _ => true

end Sys2Proof
end

