-- ==== Sys2Proof/Decode.lean ====
section
/-! DEFINITION. The decoder of the 32-bit command word and the encoder, both written from the format
and the opcode map of 30_encoding.md (R300-R304, R310, R320). -/

namespace Sys2Proof

/-- One row of the opcode map: a word w selects the row if w & mask = match (30_encoding.md R310). -/
structure OpRow where
  mnemonic : String
  pattern : Word
  mask : Word
  deriving DecidableEq, Repr

/-- The word selects the row: `w & mask = match` (30_encoding.md R310). -/
def OpRow.selects (r : OpRow) (w : Word) : Bool := w &&& r.mask == r.pattern

def rowNop : OpRow := ⟨"NOP", 0x00000000#32, 0xFFFFFFFF#32⟩
def rowClear : OpRow := ⟨"CLEAR", 0x00000001#32, 0xFFFFFFFF#32⟩
def rowGift64Enc : OpRow := ⟨"GIFT64.ENC", 0x00000010#32, 0xFFFFFFFF#32⟩
def rowGift64Dec : OpRow := ⟨"GIFT64.DEC", 0x00000011#32, 0xFFFFFFFF#32⟩
def rowGift128Enc : OpRow := ⟨"GIFT128.ENC", 0x00000012#32, 0xFFFFFFFF#32⟩
def rowGift128Dec : OpRow := ⟨"GIFT128.DEC", 0x00000013#32, 0xFFFFFFFF#32⟩
def rowGift128bsEnc : OpRow := ⟨"GIFT128BS.ENC", 0x00000014#32, 0xFFFFFFFF#32⟩
def rowGift128bsDec : OpRow := ⟨"GIFT128BS.DEC", 0x00000015#32, 0xFFFFFFFF#32⟩
def rowSkinnyEnc : OpRow := ⟨"SKINNY.ENC", 0x00000020#32, 0xFFF800FF#32⟩
def rowSkinnyDec : OpRow := ⟨"SKINNY.DEC", 0x00000021#32, 0xFFF800FF#32⟩
def rowCofbEnc : OpRow := ⟨"COFB.ENC", 0x00000030#32, 0xFFFFFFFF#32⟩
def rowCofbDec : OpRow := ⟨"COFB.DEC", 0x00000031#32, 0xFFFFFFFF#32⟩
def rowSkaeadEnc : OpRow := ⟨"SKAEAD.ENC", 0x00000040#32, 0xFFCFFFFF#32⟩
def rowSkaeadDec : OpRow := ⟨"SKAEAD.DEC", 0x00000041#32, 0xFFCFFFFF#32⟩

/-- The opcode map, its rows in the order of 30_encoding.md R310. -/
def opRows : List OpRow :=
  [rowNop, rowClear, rowGift64Enc, rowGift64Dec, rowGift128Enc, rowGift128Dec, rowGift128bsEnc,
    rowGift128bsDec, rowSkinnyEnc, rowSkinnyDec, rowCofbEnc, rowCofbDec, rowSkaeadEnc, rowSkaeadDec]

/-- The row of the opcode map that an instruction belongs to (30_encoding.md R310). -/
def Instr.row : Instr → OpRow
  | .nop => rowNop
  | .clear => rowClear
  | .gift64Enc => rowGift64Enc
  | .gift64Dec => rowGift64Dec
  | .gift128Enc => rowGift128Enc
  | .gift128Dec => rowGift128Dec
  | .gift128bsEnc => rowGift128bsEnc
  | .gift128bsDec => rowGift128bsDec
  | .skinnyEnc _ _ _ => rowSkinnyEnc
  | .skinnyDec _ _ _ => rowSkinnyDec
  | .cofbEnc => rowCofbEnc
  | .cofbDec => rowCofbDec
  | .skaeadEnc _ => rowSkaeadEnc
  | .skaeadDec _ => rowSkaeadDec

/-- Field OP, CMD[7:0] (30_encoding.md R300). -/
def fieldOp (w : Word) : BitVec 8 := w.extractLsb' 0 8

/-- Field ROUNDS, CMD[15:8] (30_encoding.md R300, R303). -/
def fieldRounds (w : Word) : BitVec 8 := w.extractLsb' 8 8

/-- Field Z, CMD[17:16] (30_encoding.md R300, R302). -/
def fieldZ (w : Word) : BitVec 2 := w.extractLsb' 16 2

/-- Field BS, CMD[18] (30_encoding.md R300, R301). -/
def fieldBs (w : Word) : Bool := w.getLsbD 18

/-- Field MEMBER, CMD[21:20] (30_encoding.md R300, R304). -/
def fieldMember (w : Word) : BitVec 2 := w.extractLsb' 20 2

/-- n = 64 if BS = 0 and n = 128 if BS = 1 (30_encoding.md R301). -/
def blockSizeOfBs (bs : Bool) : BlockSize := if bs then .n128 else .n64

/-- Field BS of a block size (30_encoding.md R301). -/
def bsOfBlockSize : BlockSize → BitVec 1
  | .n64 => 0#1
  | .n128 => 1#1

/-- MEMBER selects M(CMD[21:20] + 1) (30_encoding.md R304). -/
def memberOfField (m : BitVec 2) : Member :=
  if m = 0#2 then .m1 else if m = 1#2 then .m2 else if m = 2#2 then .m3 else .m4

/-- Field MEMBER of a member (30_encoding.md R304). -/
def fieldOfMember : Member → BitVec 2
  | .m1 => 0#2
  | .m2 => 1#2
  | .m3 => 2#2
  | .m4 => 3#2

/-- Why a command word is illegal (30_encoding.md R320). -/
inductive DecodeError where
  /-- OP is no value of the opcode map. -/
  | unknownOp (op : BitVec 8)
  /-- a 1 in a reserved bit, CMD[19] or CMD[31:22]. -/
  | reservedBit
  /-- a 1 in a field that the OP does not use. -/
  | unusedField
  deriving DecidableEq, Repr

/-- The name of the cause for a word that selects no row (30_encoding.md R320). -/
def illegalCause (w : Word) : DecodeError :=
  if !(opRows.any fun r => fieldOp r.pattern == fieldOp w) then .unknownOp (fieldOp w)
  else if w &&& 0xFFC80000#32 != 0#32 then .reservedBit
  else .unusedField

/-- Decoding a command word (30_encoding.md R310, R320): the instruction of the row that the word
selects, and a rejection by name when it selects none. Total on every 32-bit word (R306). -/
def decode (w : Word) : Except DecodeError Instr :=
  if rowNop.selects w then .ok .nop
  else if rowClear.selects w then .ok .clear
  else if rowGift64Enc.selects w then .ok .gift64Enc
  else if rowGift64Dec.selects w then .ok .gift64Dec
  else if rowGift128Enc.selects w then .ok .gift128Enc
  else if rowGift128Dec.selects w then .ok .gift128Dec
  else if rowGift128bsEnc.selects w then .ok .gift128bsEnc
  else if rowGift128bsDec.selects w then .ok .gift128bsDec
  else if rowSkinnyEnc.selects w then
    .ok (.skinnyEnc (blockSizeOfBs (fieldBs w)) (fieldZ w).toNat (fieldRounds w).toNat)
  else if rowSkinnyDec.selects w then
    .ok (.skinnyDec (blockSizeOfBs (fieldBs w)) (fieldZ w).toNat (fieldRounds w).toNat)
  else if rowCofbEnc.selects w then .ok .cofbEnc
  else if rowCofbDec.selects w then .ok .cofbDec
  else if rowSkaeadEnc.selects w then .ok (.skaeadEnc (memberOfField (fieldMember w)))
  else if rowSkaeadDec.selects w then .ok (.skaeadDec (memberOfField (fieldMember w)))
  else .error (illegalCause w)

/-- The command word with the given fields; reserved bits [19] and [31:22] are 0 (30_encoding.md R300). -/
def commandWord (op rounds : BitVec 8) (z : BitVec 2) (bs : BitVec 1) (member : BitVec 2) : Word :=
  0#10 ++ member ++ 0#1 ++ bs ++ z ++ rounds ++ op

/-- The command word of an instruction that uses no field but OP (30_encoding.md R300). -/
def opWord (op : BitVec 8) : Word := commandWord op 0#8 0#2 0#1 0#2

/-- The command word of a well-formed instruction (30_encoding.md R300-R304, R310). -/
def encode : Instr → Word
  | .nop => opWord 0x00#8
  | .clear => opWord 0x01#8
  | .gift64Enc => opWord 0x10#8
  | .gift64Dec => opWord 0x11#8
  | .gift128Enc => opWord 0x12#8
  | .gift128Dec => opWord 0x13#8
  | .gift128bsEnc => opWord 0x14#8
  | .gift128bsDec => opWord 0x15#8
  | .skinnyEnc n z rounds =>
    commandWord 0x20#8 (BitVec.ofNat 8 rounds) (BitVec.ofNat 2 z) (bsOfBlockSize n) 0#2
  | .skinnyDec n z rounds =>
    commandWord 0x21#8 (BitVec.ofNat 8 rounds) (BitVec.ofNat 2 z) (bsOfBlockSize n) 0#2
  | .cofbEnc => opWord 0x30#8
  | .cofbDec => opWord 0x31#8
  | .skaeadEnc member => commandWord 0x40#8 0#8 0#2 0#1 (fieldOfMember member)
  | .skaeadDec member => commandWord 0x41#8 0#8 0#2 0#1 (fieldOfMember member)

/-- The instruction that the decoder reads from the low `nbits` bits of `w`, every bit above them 0.
A command is one 32-bit word written to CMD (30_encoding.md R306). -/
def decodeTableWord (nbits w : Nat) : Option Instr :=
  (decode (BitVec.ofNat 32 (w % 2 ^ nbits))).toOption

end Sys2Proof
end

