-- ==== Sys2Proof/Machine/Bus.lean ====
section
/-! DEFINITION. The host's accesses to the 8 KiB window (10_state.md R102, R110-R146;
20_memory.md R200-R212). -/

namespace Sys2Proof.Machine

open Sys2Proof

/-- What an offset of the window names (10_state.md R102). -/
inductive Target where
  | id
  | cmd
  | status
  | irqEn
  | adPtr
  | adLen
  | msgPtr
  | msgLen
  | outPtr
  | key (i : Fin 12)
  | nonce (i : Fin 4)
  | din (i : Fin 4)
  | dout (i : Fin 4)
  | tag (i : Fin 4)
  /-- a reserved offset (R142). -/
  | reserved
  /-- word w of the BUF window (20_memory.md R210). -/
  | buf (w : Nat)
  deriving DecidableEq, Repr

/-- The register at word index `r = off[11:2]` below the BUF window: the map of R102, byte offset
`4 * r`. -/
def registerAt (r : Nat) : Target :=
  if r = 0x000 / 4 then .id
  else if r = 0x004 / 4 then .cmd
  else if r = 0x008 / 4 then .status
  else if r = 0x00C / 4 then .irqEn
  else if r = 0x010 / 4 then .adPtr
  else if r = 0x014 / 4 then .adLen
  else if r = 0x018 / 4 then .msgPtr
  else if r = 0x01C / 4 then .msgLen
  else if r = 0x020 / 4 then .outPtr
  else if 0x040 / 4 ≤ r ∧ r < 0x070 / 4 then .key (Fin.ofNat 12 (r - 0x040 / 4))
  else if 0x080 / 4 ≤ r ∧ r < 0x090 / 4 then .nonce (Fin.ofNat 4 (r - 0x080 / 4))
  else if 0x090 / 4 ≤ r ∧ r < 0x0A0 / 4 then .din (Fin.ofNat 4 (r - 0x090 / 4))
  else if 0x0A0 / 4 ≤ r ∧ r < 0x0B0 / 4 then .dout (Fin.ofNat 4 (r - 0x0A0 / 4))
  else if 0x0B0 / 4 ≤ r ∧ r < 0x0C0 / 4 then .tag (Fin.ofNat 4 (r - 0x0B0 / 4))
  else .reserved

/-- Decoding an offset: bits [12:2] only (20_memory.md R200, R210). -/
def targetOf (off : BitVec 13) : Target :=
  let index := off.toNat / 4
  if index < 0x1000 / 4 then registerAt index else .buf (index - 0x1000 / 4)

/-- The identity word (10_state.md R110). -/
def idWord : Word := 0x4C574301#32

/-- What a read returns while SEQ = IDLE (10_state.md R110-R142, 20_memory.md R210). -/
def readIdle (s : State) : Target → Word
  | .id => idWord
  | .cmd => s.cmd
  | .status => statusWord s
  | .irqEn => irqEnWord s
  | .adPtr => s.adPtr
  | .adLen => s.adLen
  | .msgPtr => s.msgPtr
  | .msgLen => s.msgLen
  | .outPtr => s.outPtr
  | .key _ => 0#32
  | .nonce i => s.nonce[i]
  | .din i => s.din[i]
  | .dout i => s.dout[i]
  | .tag i => s.tag[i]
  | .reserved => 0#32
  | .buf w => if 4 * w + 3 < s.params.bufBytes then bufWord s (4 * w) else 0#32

/-- The targets that a read returns the value of while SEQ = BUSY (10_state.md R146). -/
def readableWhileBusy : Target → Bool
  | .id => true
  | .cmd => true
  | .status => true
  | .irqEn => true
  | _ => false

/-- A host read: the value returned; it changes no state (10_state.md R141, R146;
20_memory.md R210, R212). -/
def hostRead (s : State) (off : BitVec 13) : Word :=
  if isBusy s && !readableWhileBusy (targetOf off) then 0#32 else readIdle s (targetOf off)

/-- The effect of a write while SEQ = IDLE (10_state.md R110-R142, R161; 20_memory.md R210). -/
def writeIdle (v : Word) (s : State) : Target → State
  | .id => s
  | .cmd => accept v s
  | .status => writeStatus v s
  | .irqEn => writeIrqEn v s
  | .adPtr => { s with adPtr := v }
  | .adLen => { s with adLen := v }
  | .msgPtr => { s with msgPtr := v }
  | .msgLen => { s with msgLen := v }
  | .outPtr => { s with outPtr := v }
  | .key i => { s with key := s.key.set i v }
  | .nonce i => { s with nonce := s.nonce.set i v }
  | .din i => { s with din := s.din.set i v }
  | .dout _ => s
  | .tag i => { s with tag := s.tag.set i v }
  | .reserved => s
  | .buf w => if 4 * w + 3 < s.params.bufBytes then bufWrite (4 * w) (wordBytes v) s else s

/-- The targets that a write reaches while SEQ = BUSY (10_state.md R145). -/
def writableWhileBusy : Target → Bool
  | .status => true
  | .irqEn => true
  | _ => false

/-- A host write (10_state.md R141-R146, R161; 20_memory.md R210): dropped while SEQ = BUSY, with WERR
set, unless it is to STATUS or IRQ_EN. -/
def hostWrite (off : BitVec 13) (v : Word) (s : State) : State :=
  if isBusy s && !writableWhileBusy (targetOf off) then dropWrite s
  else writeIdle v s (targetOf off)

end Sys2Proof.Machine
end

