-- ==== Sys2Proof/Machine/HostProgram.lean ====
section
/-! DEFINITION. Host programs: transactions, pseudo-instructions and their expansions
(30_encoding.md R340-R342), one turn of the host, and the end of a run (70_reset_and_hazards.md
R1241, R1242). -/

namespace Sys2Proof.Machine

open Sys2Proof

/-- Offset of CMD (10_state.md R102). -/
def offCmd : BitVec 13 := 0x004#13
/-- Offset of STATUS (10_state.md R102). -/
def offStatus : BitVec 13 := 0x008#13
/-- Offset of IRQ_EN (10_state.md R102). -/
def offIrqEn : BitVec 13 := 0x00C#13
/-- Offset of AD_PTR (10_state.md R102). -/
def offAdPtr : BitVec 13 := 0x010#13
/-- Offset of AD_LEN (10_state.md R102). -/
def offAdLen : BitVec 13 := 0x014#13
/-- Offset of MSG_PTR (10_state.md R102). -/
def offMsgPtr : BitVec 13 := 0x018#13
/-- Offset of MSG_LEN (10_state.md R102). -/
def offMsgLen : BitVec 13 := 0x01C#13
/-- Offset of OUT_PTR (10_state.md R102). -/
def offOutPtr : BitVec 13 := 0x020#13
/-- Offset of KEY0 (10_state.md R102). -/
def offKey : BitVec 13 := 0x040#13
/-- Offset of NONCE0 (10_state.md R102). -/
def offNonce : BitVec 13 := 0x080#13
/-- Offset of DIN0 (10_state.md R102). -/
def offDin : BitVec 13 := 0x090#13
/-- Offset of DOUT0 (10_state.md R102). -/
def offDout : BitVec 13 := 0x0A0#13
/-- Offset of TAG0 (10_state.md R102). -/
def offTag : BitVec 13 := 0x0B0#13
/-- Offset of the BUF window (20_memory.md R200). -/
def offBuf : BitVec 13 := 0x1000#13

/-- The lines of a host program: transactions and pseudo-instructions (30_encoding.md R340, R342). A
multi-word value is given as its words, most significant first. -/
inductive HostLine where
  | wr (off : BitVec 13) (v : Word)
  | rd (off : BitVec 13)
  | cmd (i : Instr)
  | wait
  | ack
  | ldk (words : List Word)
  | ldn (words : List Word)
  | ldi (words : List Word)
  | ldt (words : List Word)
  | ldbuf (a : Nat) (bytes : List Byte)
  deriving DecidableEq, Repr

/-- One write per word at consecutive registers (30_encoding.md R342). -/
def writeWords (off : BitVec 13) : List Word → List HostOp
  | [] => []
  | v :: rest => .wr off v :: writeWords (off + 4#13) rest

/-- The big-endian words of a byte string, padded with zero bytes to whole words
(30_encoding.md R342, 20_memory.md R203). -/
def bytesToWords : List Byte → List Word
  | [] => []
  | [p] => [p ++ 0#8 ++ 0#8 ++ 0#8]
  | [p, q] => [p ++ q ++ 0#8 ++ 0#8]
  | [p, q, r] => [p ++ q ++ r ++ 0#8]
  | p :: q :: r :: t :: rest => (p ++ q ++ r ++ t) :: bytesToWords rest

/-- The expansion of a line: the core sees only this (30_encoding.md R342). -/
def expandLine : HostLine → List HostOp
  | .wr off v => [.wr off v]
  | .rd off => [.rd off]
  | .cmd i => [.wr offCmd (encode i)]
  | .wait => [.wait]
  | .ack => [.wr offStatus 0x00000002#32]
  | .ldk words => writeWords offKey words
  | .ldn words => writeWords offNonce words
  | .ldi words => writeWords offDin words
  | .ldt words => writeWords offTag words
  | .ldbuf a bytes => writeWords (offBuf + BitVec.ofNat 13 a) (bytesToWords bytes)

/-- The expansion of a host program (30_encoding.md R340, R342). -/
def expandProgram (lines : List HostLine) : List HostOp := lines.flatMap expandLine

/-- The operand text of a member (30_encoding.md R341). -/
def memberText : Member → String
  | .m1 => "M1"
  | .m2 => "M2"
  | .m3 => "M3"
  | .m4 => "M4"

/-- The operand text of the SKINNY fields (30_encoding.md R341). -/
def skinnyText (n : BlockSize) (z rounds : Nat) : String :=
  " n=" ++ (match n with | .n64 => "64" | .n128 => "128") ++ ", z=" ++ toString z ++
    (if rounds = 0 then "" else ", rounds=" ++ toString rounds)

/-- A command in assembler: its mnemonic, then its fields; ROUNDS = 0 is not written
(30_encoding.md R341). -/
def assembler (i : Instr) : String :=
  i.row.mnemonic ++
    match i with
    | .skinnyEnc n z rounds => skinnyText n z rounds
    | .skinnyDec n z rounds => skinnyText n z rounds
    | .skaeadEnc member => " member=" ++ memberText member
    | .skaeadDec member => " member=" ++ memberText member
    | _ => ""

/-- A read of the host returned `v`, and `rest` is left to issue (70_reset_and_hazards.md R1241). -/
def returned (v : Word) (rest : List HostOp) (s : State) : State :=
  { s with program := rest, reads := s.reads ++ [v] }

/-- One turn of the host (46_system.md R1010, 30_encoding.md R340, R342): the next write or read; a
`wait` reads STATUS and is over when BUSY reads 0. A host with nothing left to issue does nothing. -/
def hostTurn (s : State) : State :=
  match s.program with
  | [] => s
  | .wr off v :: rest => hostWrite off v { s with program := rest }
  | .rd off :: rest => returned (hostRead s off) rest s
  | .wait :: rest =>
    let v := hostRead s offStatus
    if v.getLsbD 0 then s else returned v rest s

/-- The run of a program ends when every transaction has been issued and SEQ = IDLE
(70_reset_and_hazards.md R1241). -/
def runEnded (s : State) : Bool := s.program.isEmpty && !isBusy s

end Sys2Proof.Machine
end

