-- ==== Sys2Proof/Machine/Sequence.lean ====
section
/-! DEFINITION. The step relation of 46_system.md (R1010-R1012) as a function of the schedule: which
agent takes the next step, and what the sequencer's completion step does. -/

namespace Sys2Proof.Machine

open Sys2Proof

/-- The command word in flight, if any (10_state.md R160). -/
def wordInFlight (s : State) : Option Word :=
  match s.seq with
  | .idle => none
  | .busy w => some w

/-- The Complete step (10_state.md R162, 46_system.md R1010, R1012): evaluate the command in flight; a
word that selects no row ends with ERR_ILLEGAL (60_exceptions.md R1102). The step is not enabled while
SEQ = IDLE, and a turn given to it then does nothing (assumption log 3). -/
def completeTurn (s : State) : Host.Outcome State Fault Refusal :=
  match wordInFlight s with
  | none => .next s
  | some w =>
    match decode w with
    | .ok i => exec i s
    | .error _ => raiseErr .illegal s

/-- A turn of the given agent (46_system.md R1010). -/
def takeTurn (turn : Turn) (s : State) : Host.Outcome State Fault Refusal :=
  match turn with
  | .host => .next (hostTurn s)
  | .complete => completeTurn s
  | .reset => .next (resetEvent s)

/-- The turn that is taken when the schedule names none: the Complete step if it is enabled, else the
host's. So an enabled Complete step is taken at last in every run (70_reset_and_hazards.md R1230;
assumption log 3). -/
def defaultTurn (s : State) : Turn := if isBusy s then .complete else .host

/-- One step of the machine: the first turn of the schedule, or the default turn. -/
def scheduledStep (s : State) : Host.Outcome State Fault Refusal :=
  match s.schedule with
  | [] => takeTurn (defaultTurn s) s
  | turn :: rest => takeTurn turn { s with schedule := rest }

/-- The schedule with the Complete step next: the default already does so when no turn is named. -/
def completeNext : List Turn → List Turn
  | [] => []
  | turns => .complete :: turns

/-- A command word in flight, as acceptance leaves it (10_state.md R161), and its Complete step next:
what an assembled word needs to be the next instruction that runs (assumption log 5). -/
def withCommandInFlight (w : Word) (s : State) : State :=
  { accept w s with schedule := completeNext s.schedule }

end Sys2Proof.Machine
end

