-- ==== Sys2Proof/Machine/Step.lean ====
section
/-! DEFINITION. The step of the machine (46_system.md R1010), and the placing of a command word where
the next step runs it. -/

namespace Sys2Proof.Machine

open Sys2Proof

/-- One step of the machine (46_system.md R1010). -/
def step (s : State) : Host.Outcome State Fault Refusal := scheduledStep s

/-- `s` with the command word that has the low `nbits` bits of `w`, and 0 above them, in flight and its
Complete step next (30_encoding.md R306, 10_state.md R161). -/
def State.withFetchWord (s : State) (nbits w : Nat) : State :=
  withCommandInFlight (BitVec.ofNat 32 (w % 2 ^ nbits)) s

end Sys2Proof.Machine
end

