-- ==== Sys2Proof/Safety.lean ====
section
/-! DEFINITION. What the statements call a well-formed state, a safe step and the end of a run.

Nothing makes the core fault, hang or refuse (70_reset_and_hazards.md R1240): every step of the model
answers a next state, and `Machine.Inv` is what every step keeps. The loops at the end are the second form
of the AEAD passes, which the statements prove equal to the model's. -/

namespace Sys2Proof.Machine

open Sys2Proof

/-- The outcome is a next state with the property `p`. -/
def Answers (o : Host.Outcome State Fault Refusal) (p : State → Prop) : Prop :=
  ∃ t, o = .next t ∧ p t

/-- The well-formed states: the parameters are legal (00_scope.md R12), BUF is in canonical form
within BUF_BYTES (10_state.md R150), and STATUS, CMD and SEQ agree: ERR is 0 whenever DONE is 0
(10_state.md R112, R161), DONE is 0 while BUSY, and CMD holds the word in flight (R111, R161). -/
def Inv (s : State) : Bool :=
  s.params.wf && s.buf.wf s.params.bufBytes && (s.done || s.err == .ok) &&
    (match s.seq with
      | .idle => true
      | .busy w => !s.done && s.cmd == w)

/-- Byte `a` lies in the bytes that `NibWrite(p, L, v)` writes (20_memory.md R220). -/
def inNibRegion (p len a : Nat) : Prop := p ≤ a ∧ a < p + (len + 1) / 2

/-- The region (p, L) passes the range check (20_memory.md R221). -/
def regionFits (bufBytes p len : Nat) : Prop := len = 0 ∨ p + (len + 1) / 2 ≤ bufBytes

/-- The three regions of an AEAD command pass the range check (20_memory.md R221). -/
def RegionsFit (s : State) : Prop :=
  regionFits s.params.bufBytes s.adPtr.toNat s.adLen.toNat ∧
    regionFits s.params.bufBytes s.msgPtr.toNat s.msgLen.toNat ∧
    regionFits s.params.bufBytes s.outPtr.toNat s.msgLen.toNat

/-- The output region is the message region, and it shares no byte with the associated data
(20_memory.md R222). -/
def InPlace (s : State) : Prop :=
  s.outPtr = s.msgPtr ∧
    ∀ a, inNibRegion s.msgPtr.toNat s.msgLen.toNat a → ¬ inNibRegion s.adPtr.toNat s.adLen.toNat a

/-- Every register but STATUS.DONE, STATUS.ERR, DOUT and TAG keeps its value, and so do the model's own
fields: what no command but CLEAR changes (10_state.md R162). -/
def KeepsOperands (s t : State) : Prop :=
  t.params = s.params ∧ t.cmd = s.cmd ∧ t.werr = s.werr ∧ t.doneIe = s.doneIe ∧
    t.werrIe = s.werrIe ∧ t.adPtr = s.adPtr ∧ t.adLen = s.adLen ∧ t.msgPtr = s.msgPtr ∧
    t.msgLen = s.msgLen ∧ t.outPtr = s.outPtr ∧ t.key = s.key ∧ t.nonce = s.nonce ∧
    t.din = s.din ∧ t.resets = s.resets ∧ t.program = s.program ∧ t.schedule = s.schedule ∧
    t.reads = s.reads

/-- The command completed with the code (10_state.md R162) and kept its operands. -/
def CompletesWith (code : ErrCode) (s t : State) : Prop :=
  t.err = code ∧ t.done = true ∧ t.seq = .idle ∧ KeepsOperands s t

/-- Every byte of BUF reads as before. -/
def KeepsBuf (s t : State) : Prop := ∀ a, bufByte t a = bufByte s a

/-- `NibWrite(OUT_PTR, MSG_LEN, v)` happened and changed no other byte of BUF (20_memory.md R220, R223).
-/
def WritesOutput (v : List Nibble) (s t : State) : Prop :=
  nibRead t s.outPtr.toNat s.msgLen.toNat = v ∧
    (s.msgLen.toNat % 2 = 1 →
      (bufByte t (s.outPtr.toNat + s.msgLen.toNat / 2)).extractLsb' 0 4 = 0#4) ∧
    ∀ a, ¬ inNibRegion s.outPtr.toNat s.msgLen.toNat a → bufByte t a = bufByte s a

/-- The states agree on what a command reads: the parameters, KEY, NONCE, DIN, TAG, the pointers and
lengths, DOUT and BUF, and the command in flight (46_system.md R1013). -/
def SameCommandState (s t : State) : Prop :=
  t.params = s.params ∧ t.cmd = s.cmd ∧ t.adPtr = s.adPtr ∧ t.adLen = s.adLen ∧
    t.msgPtr = s.msgPtr ∧ t.msgLen = s.msgLen ∧ t.outPtr = s.outPtr ∧ t.key = s.key ∧
    t.nonce = s.nonce ∧ t.din = s.din ∧ t.dout = s.dout ∧ t.tag = s.tag ∧ t.seq = s.seq ∧
    t.buf = s.buf ∧ t.resets = s.resets

/-- The launch premises of a host program (70_reset_and_hazards.md R1242): SEQ = IDLE, no command in
flight, WERR = 0, and the parameters at their defaults. -/
def launchPremises (s : State) : Bool :=
  !isBusy s && !s.werr && s.params == Params.default

/-! ### The AEAD passes as the loops that the rules write

The model runs these passes by recursion over the blocks; the statements compare them with the loops of
the pseudocode, whose variables are the fields below. -/

/-- The variables of the loops of 44_gift_cofb.md R810 and R812: Y, Δ and the output so far. -/
structure CofbLoop where
  y : Block
  delta : BitVec 64
  out : List Nibble
  deriving DecidableEq, Repr

/-- The body of the loops of 44_gift_cofb.md R810 and R812 once Δ is updated: the output is the block XOR
the truncated Y, and Y becomes E of `G(Y)`, the padded plaintext and `Δ || 0^64` (R802-R804). -/
def cofbLoopBody (e : Block → Block) (dir : Direction) (delta : BitVec 64) (b : List Nibble)
    (v : CofbLoop) : CofbLoop :=
  let plain := if dir = .encrypt then b else xorTrunc b v.y
  let g := v.y.extractLsb' 0 64 ++ (v.y.extractLsb' 64 64).rotateLeft 1
  { y := e (g ^^^ blk plain ^^^ (delta ++ 0#64)), delta := delta, out := v.out ++ xorTrunc b v.y }

/-- The mask of block i of k blocks (44_gift_cofb.md R810, R811): Δ doubles at every block but the last,
and at the last is tripled once, once more if the block is not full, and twice more if there is no
message. -/
def cofbBlockMask (k : Nat) (noMessage : Bool) (i : Nat) (b : List Nibble) (delta : BitVec 64) :
    BitVec 64 :=
  if i + 1 < k then double delta
  else triple^[1 + (if b.length < 32 then 1 else 0) + (if noMessage then 2 else 0)] delta

/-- The loop of 44_gift_cofb.md R810 over consecutive blocks of an input of k blocks, each with its index.
-/
def cofbLoopFrom (e : Block → Block) (dir : Direction) (k : Nat) (noMessage : Bool)
    (blocks : List (List Nibble × Nat)) (start : CofbLoop) : CofbLoop :=
  blocks.foldl (fun v b =>
    cofbLoopBody e dir (cofbBlockMask k noMessage b.2 b.1 v.delta) b.1 v) start

/-- A loop of 44_gift_cofb.md R810 over the blocks 0 to k-1 of an input. -/
def cofbLoop (e : Block → Block) (dir : Direction) (noMessage : Bool) (blocks : List (List Nibble))
    (start : CofbLoop) : CofbLoop :=
  cofbLoopFrom e dir blocks.length noMessage blocks.zipIdx start

/-- The blocks of a loop that is not entered for an empty string (44_gift_cofb.md R810,
45_skinny_aead.md R910: `if Lm > 0`). -/
def blocksIfAny (v : List Nibble) : List (List Nibble) := if v = [] then [] else split v

/-- The variables of the message loops of 45_skinny_aead.md R910 and R913. -/
structure SkaeadLoop where
  lfsr : BitVec 64
  sigma : Block
  out : List Nibble
  lastPartial : Bool
  deriving DecidableEq, Repr

/-- The body of the message loops of 45_skinny_aead.md R910 and R913, with `e` and `d` the block cipher
and its inverse under a counter value and a role: role 0 and the cipher for a full block, role 1 and the
keystream for a partial one; every block advances the counter (R916). -/
def skaeadLoopBody (e d : BitVec 64 → Byte → Block → Block) (dir : Direction) (v : SkaeadLoop)
    (b : List Nibble) : SkaeadLoop :=
  if b.length = 32 then
    let x := packNibbles b
    let y := if dir = .encrypt then e v.lfsr 0x00#8 x else d v.lfsr 0x00#8 x
    { lfsr := double v.lfsr
      sigma := v.sigma ^^^ (if dir = .encrypt then x else y)
      out := v.out ++ blockNibbles y
      lastPartial := v.lastPartial }
  else
    let y := xorTrunc b (e v.lfsr 0x01#8 0#128)
    { lfsr := double v.lfsr
      sigma := v.sigma ^^^ pad10 (if dir = .encrypt then b else y)
      out := v.out ++ y
      lastPartial := true }

/-- The message loops of 45_skinny_aead.md R910 and R913, from counter 1 and checksum 0. -/
def skaeadLoop (e d : BitVec 64 → Byte → Block → Block) (dir : Direction)
    (blocks : List (List Nibble)) : SkaeadLoop :=
  blocks.foldl (skaeadLoopBody e d dir) { lfsr := 1#64, sigma := 0#128, out := [], lastPartial := false }

/-- The body of the associated-data loop of 45_skinny_aead.md R910, on the counter and auth: role 2 for a
full block, role 3 for a padded partial one. -/
def skaeadAdLoopBody (e : BitVec 64 → Byte → Block → Block) (v : BitVec 64 × Block)
    (b : List Nibble) : BitVec 64 × Block :=
  let y := if b.length = 32 then e v.1 0x02#8 (packNibbles b) else e v.1 0x03#8 (pad10 b)
  (double v.1, v.2 ^^^ y)

/-- The associated-data loop of 45_skinny_aead.md R910, from counter 1 and auth 0. -/
def skaeadAdLoop (e : BitVec 64 → Byte → Block → Block) (blocks : List (List Nibble)) :
    BitVec 64 × Block :=
  blocks.foldl (skaeadAdLoopBody e) (1#64, 0#128)

/-- `TKA(lfsr, MB | role)`, the bytes of the counter in reverse order first (45_skinny_aead.md R902, R903,
40_primitives.md R441). -/
def skaeadTka (mb : Byte) (nn k : Block) (lfsr : BitVec 64) (role : Byte) : BitVec 384 :=
  lfsr.extractLsb' 0 8 ++ lfsr.extractLsb' 8 8 ++ lfsr.extractLsb' 16 8 ++ lfsr.extractLsb' 24 8 ++
    lfsr.extractLsb' 32 8 ++ lfsr.extractLsb' 40 8 ++ lfsr.extractLsb' 48 8 ++
    lfsr.extractLsb' 56 8 ++ 0#56 ++ (mb ||| role) ++ nn ++ k

end Sys2Proof.Machine
end

