-- ==== Sys2Proof/Certificates/Slice0/Obligations.lean ====
section
/-! DEFINITION. The statements for the provers, from the numbered rules of spec/. A host offset `off` is
named by its word index `off.toNat / 4`, the bits [12:2] that the core decodes (20_memory.md R210). -/

open Sys2Proof Sys2Proof.Machine

/-! ### Encoding -/

/-- Every well-formed command is what its word decodes to (30_encoding.md R300-R304, R310). -/
def Obligations.DecodeEncodeAgree : Prop :=
  ∀ i : Instr, i.wf = true → decode (encode i) = .ok i

/-- A word that decodes is the encoding of what it decodes to: no word outside the map decodes, and no
two words name one command (30_encoding.md R310, R320). -/
def Obligations.DecodedWordIsItsEncoding : Prop :=
  ∀ (w : Word) (i : Instr), decode w = .ok i → i.wf = true ∧ encode i = w

/-- Words written out from the format of 30_encoding.md R300 and the map of R310. -/
def Obligations.SampleCommandWordsDecode : Prop :=
  decode 0x00000000#32 = .ok .nop ∧
  decode 0x00000001#32 = .ok .clear ∧
  decode 0x00000013#32 = .ok .gift128Dec ∧
  decode 0x00000014#32 = .ok .gift128bsEnc ∧
  decode 0x00010020#32 = .ok (.skinnyEnc .n64 1 0) ∧
  decode 0x00020A21#32 = .ok (.skinnyDec .n64 2 10) ∧
  decode 0x0007FF21#32 = .ok (.skinnyDec .n128 3 255) ∧
  decode 0x00000031#32 = .ok .cofbDec ∧
  decode 0x00300040#32 = .ok (.skaeadEnc .m4) ∧
  decode 0x00080010#32 = .error .reservedBit ∧
  decode 0x00000110#32 = .error .unusedField ∧
  decode 0x00000042#32 = .error (.unknownOp 0x42#8)

/-- The rows of the opcode map do not overlap (30_encoding.md R311). -/
def Obligations.OpcodeRowsDoNotOverlap : Prop :=
  (opRows.map fun r => fieldOp r.pattern).Nodup ∧
  (∀ r ∈ opRows, r.mask &&& 0x000000FF#32 = 0x000000FF#32) ∧
  ∀ w : Word, ∀ r ∈ opRows, ∀ q ∈ opRows, r.selects w = true → q.selects w = true → r = q

/-- A command ends with ERR_ILLEGAL if and only if its word selects no row, which is when the OP is no
OP of the map, a reserved bit is 1, or a field that the OP does not use is not 0; and it then changes
STATUS only (30_encoding.md R320). -/
def Obligations.IllegalExactlyWhenNoRow : Prop :=
  ∀ (s : State) (w : Word), s.seq = .busy w → ∃ t, completeTurn s = .next t ∧
    (t.err = .illegal ↔ ∀ r ∈ opRows, r.selects w = false) ∧
    (t.err = .illegal ↔
      (fieldOp w ∉ [0x00#8, 0x01#8, 0x10#8, 0x11#8, 0x12#8, 0x13#8, 0x14#8, 0x15#8, 0x20#8, 0x21#8,
          0x30#8, 0x31#8, 0x40#8, 0x41#8]) ∨
      w.getLsbD 19 = true ∨ w.extractLsb' 22 10 ≠ 0#10 ∨
      (fieldOp w ∉ [0x20#8, 0x21#8] ∧
        (fieldRounds w ≠ 0#8 ∨ fieldZ w ≠ 0#2 ∨ fieldBs w = true)) ∨
      (fieldOp w ∉ [0x40#8, 0x41#8] ∧ fieldMember w ≠ 0#2)) ∧
    (t.err = .illegal → t = { s with err := .illegal, done := true, seq := .idle })

/-! ### Steps -/

/-- The step that completes a command is exec of the instruction that its word decodes to: by default
while the schedule names no turn, and when the schedule names Complete, which it then drops
(46_system.md R1012; the default turn is the model's choice, assumption log 3). -/
def Obligations.StepRunsTheDecodedCommand : Prop :=
  ∀ (s : State) (w : Word) (i : Instr), s.seq = .busy w → decode w = .ok i → i.wf = true →
    (s.schedule = [] → step s = exec i s) ∧
    (∀ rest, s.schedule = .complete :: rest → step s = exec i { s with schedule := rest })

/-- What a step is, for every schedule (46_system.md R1010; that a turn of Complete while IDLE and a turn
of a host with nothing to issue do nothing, and the default turn, are the model's choices, assumption
log 3). -/
def Obligations.StepTakesTheScheduledTurn : Prop :=
  ∀ s : State,
    (∀ rest, s.schedule = .host :: rest → step s = .next (hostTurn { s with schedule := rest })) ∧
    (∀ rest, s.schedule = .reset :: rest → step s = .next (resetEvent { s with schedule := rest })) ∧
    (∀ rest, s.schedule = .complete :: rest → s.seq = .idle →
      step s = .next { s with schedule := rest }) ∧
    (s.schedule = [] → s.seq = .idle → step s = .next (hostTurn s)) ∧
    (s.schedule = [] → s.seq = .idle → s.program = [] → step s = .next s)

/-- One turn of the host: a write is a bus write, a read appends the value and changes nothing else, and
a `wait` reads STATUS until BUSY is 0 (30_encoding.md R340, R342; 20_memory.md R212). That the values read
are a list in the machine, and that a `wait` records its last value only, are the model's choices
(assumption log 4). -/
def Obligations.HostTurnIssuesTheNextTransaction : Prop :=
  ∀ (s : State) (rest : List HostOp),
    (∀ off v, s.program = .wr off v :: rest → hostTurn s = hostWrite off v { s with program := rest }) ∧
    (∀ off, s.program = .rd off :: rest →
      hostTurn s = { s with program := rest, reads := s.reads ++ [hostRead s off] }) ∧
    (s.program = .wait :: rest → (∃ w, s.seq = .busy w) → hostTurn s = s) ∧
    (s.program = .wait :: rest → s.seq = .idle →
      hostTurn s = { s with program := rest, reads := s.reads ++ [statusWord s] })

/-- Acceptance: a write to CMD while IDLE stores the word, clears DONE and ERR, makes the sequencer BUSY
and changes nothing else, whether or not the word is legal (10_state.md R161). -/
def Obligations.CmdWriteIsAccepted : Prop :=
  ∀ (s : State) (off : BitVec 13) (w : Word), s.seq = .idle → off.toNat / 4 = 0x004 / 4 →
    hostWrite off w s = { s with cmd := w, done := false, err := .ok, seq := .busy w }

/-- While BUSY, a write other than to STATUS and IRQ_EN only sets WERR, and a read other than of ID, CMD,
STATUS and IRQ_EN returns 0 (10_state.md R145, R146). -/
def Obligations.BusyAccessesAreWithheld : Prop :=
  ∀ (s : State) (w : Word) (off : BitVec 13), s.seq = .busy w →
    (off.toNat / 4 ≠ 0x008 / 4 → off.toNat / 4 ≠ 0x00C / 4 →
      ∀ v, hostWrite off v s = { s with werr := true }) ∧
    (off.toNat / 4 = 0x000 / 4 → hostRead s off = 0x4C574301#32) ∧
    (off.toNat / 4 = 0x004 / 4 → hostRead s off = s.cmd) ∧
    (off.toNat / 4 = 0x008 / 4 → hostRead s off = statusWord s) ∧
    (off.toNat / 4 = 0x00C / 4 → hostRead s off = irqEnWord s) ∧
    (0x010 / 4 ≤ off.toNat / 4 → hostRead s off = 0#32)

/-- STATUS: what its bits read, and what a write does, IDLE or BUSY (10_state.md R112, 60_exceptions.md
R1101). -/
def Obligations.StatusReadsAndClears : Prop :=
  ∀ (s : State) (off : BitVec 13), off.toNat / 4 = 0x008 / 4 →
    ((hostRead s off).getLsbD 0 = true ↔ ∃ w, s.seq = .busy w) ∧
    (hostRead s off).getLsbD 1 = s.done ∧
    (hostRead s off).getLsbD 2 = s.werr ∧
    (hostRead s off).getLsbD 3 = false ∧
    (hostRead s off).extractLsb' 4 4 = (match s.err with
      | .ok => 0#4 | .illegal => 1#4 | .config => 2#4 | .precond => 3#4 | .auth => 4#4) ∧
    (hostRead s off).extractLsb' 8 24 = 0#24 ∧
    ∀ v : Word, hostWrite off v s =
      { s with
        done := s.done && !v.getLsbD 1
        err := if v.getLsbD 1 then .ok else s.err
        werr := s.werr && !v.getLsbD 2 }

/-- IRQ_EN holds two bits, discards the others and is written even while BUSY, without setting WERR
(10_state.md R113). -/
def Obligations.IrqEnHoldsTwoBits : Prop :=
  State.reset.doneIe = false ∧ State.reset.werrIe = false ∧
  ∀ (s : State) (off : BitVec 13) (v : Word), off.toNat / 4 = 0x00C / 4 →
    hostWrite off v s = { s with doneIe := v.getLsbD 0, werrIe := v.getLsbD 1 } ∧
    hostRead (hostWrite off v s) off = v &&& 0x00000003#32

/-- The interrupt output is (DONE and DONE_IE) or (WERR and WERR_IE), read from the registers
(60_exceptions.md R1120). -/
def Obligations.IrqIsALevelOfTheRegisters : Prop :=
  ∀ s : State, irq s =
    (((hostRead s 0x008#13).getLsbD 1 && (hostRead s 0x00C#13).getLsbD 0) ||
      ((hostRead s 0x008#13).getLsbD 2 && (hostRead s 0x00C#13).getLsbD 1))

/-- KEY cannot be read: no read returns anything of it, and no turn of the host that writes no KEY
register depends on it (10_state.md R130, R171). -/
def Obligations.KeyIsNeverReadBack : Prop :=
  (∀ (s : State) (off : BitVec 13), 0x040 / 4 ≤ off.toNat / 4 → off.toNat / 4 < 0x070 / 4 →
    hostRead s off = 0#32) ∧
  ∀ (s : State) (k : Vector Word 12),
    (∀ off v rest, s.program = .wr off v :: rest →
      off.toNat / 4 < 0x040 / 4 ∨ 0x070 / 4 ≤ off.toNat / 4) →
    hostTurn { s with key := k } = { hostTurn s with key := k }

/-- Each register offset while IDLE, with the field of the state that it names: a write to a read-write
register stores the word in that field and changes nothing else, and a read returns the field; a write to
KEYi stores the word there; DOUTi is read-only, a write to it changing nothing, WERR included; CMD reads
the last accepted word. The first clause says what the other offsets read after a write
(10_state.md R102, R111, R120, R121, R130-R134, R141; 60_exceptions.md R1107). -/
def Obligations.RegisterWritesAreStored : Prop :=
  ∀ (s : State) (off : BitVec 13) (v : Word), s.seq = .idle →
    ((0x010 / 4 ≤ off.toNat / 4 ∧ off.toNat / 4 ≤ 0x020 / 4) ∨
        (0x080 / 4 ≤ off.toNat / 4 ∧ off.toNat / 4 < 0x0A0 / 4) ∨
        (0x0B0 / 4 ≤ off.toNat / 4 ∧ off.toNat / 4 < 0x0C0 / 4) →
      hostRead (hostWrite off v s) off = v ∧
      (∀ x : BitVec 13, x.toNat / 4 ≠ off.toNat / 4 →
        hostRead (hostWrite off v s) x = hostRead s x) ∧
      (hostWrite off v s).key = s.key ∧ (hostWrite off v s).params = s.params ∧
      (hostWrite off v s).seq = s.seq ∧ KeepsBuf s (hostWrite off v s)) ∧
    (∀ i : Fin 12, off.toNat / 4 = 0x040 / 4 + i.val →
      hostWrite off v s = { s with key := (hostWrite off v s).key } ∧
      ∀ j : Fin 12, (hostWrite off v s).key[j] = if j = i then v else s.key[j]) ∧
    (off.toNat / 4 = 0x004 / 4 → hostRead s off = s.cmd) ∧
    (off.toNat / 4 = 0x010 / 4 →
      hostRead s off = s.adPtr ∧ hostWrite off v s = { s with adPtr := v }) ∧
    (off.toNat / 4 = 0x014 / 4 →
      hostRead s off = s.adLen ∧ hostWrite off v s = { s with adLen := v }) ∧
    (off.toNat / 4 = 0x018 / 4 →
      hostRead s off = s.msgPtr ∧ hostWrite off v s = { s with msgPtr := v }) ∧
    (off.toNat / 4 = 0x01C / 4 →
      hostRead s off = s.msgLen ∧ hostWrite off v s = { s with msgLen := v }) ∧
    (off.toNat / 4 = 0x020 / 4 →
      hostRead s off = s.outPtr ∧ hostWrite off v s = { s with outPtr := v }) ∧
    (∀ i : Fin 4, off.toNat / 4 = 0x080 / 4 + i.val →
      hostRead s off = s.nonce[i] ∧
      hostWrite off v s = { s with nonce := (hostWrite off v s).nonce } ∧
      ∀ j : Fin 4, (hostWrite off v s).nonce[j] = if j = i then v else s.nonce[j]) ∧
    (∀ i : Fin 4, off.toNat / 4 = 0x090 / 4 + i.val →
      hostRead s off = s.din[i] ∧
      hostWrite off v s = { s with din := (hostWrite off v s).din } ∧
      ∀ j : Fin 4, (hostWrite off v s).din[j] = if j = i then v else s.din[j]) ∧
    (∀ i : Fin 4, off.toNat / 4 = 0x0A0 / 4 + i.val →
      hostRead s off = s.dout[i] ∧ hostWrite off v s = s) ∧
    (∀ i : Fin 4, off.toNat / 4 = 0x0B0 / 4 + i.val →
      hostRead s off = s.tag[i] ∧
      hostWrite off v s = { s with tag := (hostWrite off v s).tag } ∧
      ∀ j : Fin 4, (hostWrite off v s).tag[j] = if j = i then v else s.tag[j])

/-- ID always reads 0x4C574301 and a write to it while IDLE does nothing; a reserved offset reads 0 and a
write to it while IDLE does nothing (10_state.md R110, R142). -/
def Obligations.IdAndReservedOffsets : Prop :=
  ∀ (s : State) (off : BitVec 13),
    (off.toNat / 4 = 0x000 / 4 → hostRead s off = 0x4C574301#32 ∧
      (s.seq = .idle → ∀ v, hostWrite off v s = s)) ∧
    ((0x024 / 4 ≤ off.toNat / 4 ∧ off.toNat / 4 ≤ 0x03C / 4) ∨
        (0x070 / 4 ≤ off.toNat / 4 ∧ off.toNat / 4 ≤ 0x07C / 4) ∨
        (0x0C0 / 4 ≤ off.toNat / 4 ∧ off.toNat / 4 ≤ 0x0FFC / 4) →
      hostRead s off = 0#32 ∧ (s.seq = .idle → ∀ v, hostWrite off v s = s))

/-- The BUF window: offset bits [1:0] are ignored; a word within BUF_BYTES is the big-endian word of its
four bytes; a word beyond BUF_BYTES reads 0 and ignores writes (20_memory.md R210). -/
def Obligations.BufWindowIsBigEndian : Prop :=
  (∀ (s : State) (off : BitVec 13) (v : Word),
    hostRead s off = hostRead s (off &&& 0x1FFC#13) ∧
    hostWrite off v s = hostWrite (off &&& 0x1FFC#13) v s) ∧
  ∀ (s : State) (off : BitVec 13) (v : Word) (w : Nat), s.seq = .idle →
    off.toNat / 4 = 0x1000 / 4 + w →
    (4 * w + 3 < s.params.bufBytes →
      hostRead s off = bufByte s (4 * w) ++ bufByte s (4 * w + 1) ++ bufByte s (4 * w + 2) ++
        bufByte s (4 * w + 3) ∧
      hostWrite off v s = { s with buf := (hostWrite off v s).buf } ∧
      bufByte (hostWrite off v s) (4 * w) = v.extractLsb' 24 8 ∧
      bufByte (hostWrite off v s) (4 * w + 1) = v.extractLsb' 16 8 ∧
      bufByte (hostWrite off v s) (4 * w + 2) = v.extractLsb' 8 8 ∧
      bufByte (hostWrite off v s) (4 * w + 3) = v.extractLsb' 0 8 ∧
      ∀ a, a < 4 * w ∨ 4 * w + 3 < a → bufByte (hostWrite off v s) a = bufByte s a) ∧
    (s.params.bufBytes ≤ 4 * w + 3 → hostRead s off = 0#32 ∧ hostWrite off v s = s)

/-! ### Reset -/

/-- Right after reset every register reads its reset value, KEY is 0, the sequencer is IDLE and the
interrupt output is low (10_state.md R102, R180). That the parameters are at their defaults and that BUF
reads the draws of reset 0 is the model's form (00_scope.md R12, assumption logs 1 and 2). -/
def Obligations.ResetStateHoldsTheResetValues : Prop :=
  (∀ off : BitVec 13, off.toNat / 4 < 0x1000 / 4 →
    hostRead State.reset off = if off.toNat / 4 = 0 then 0x4C574301#32 else 0#32) ∧
  (∀ i : Fin 12, State.reset.key[i] = 0#32) ∧
  State.reset.seq = .idle ∧ irq State.reset = false ∧
  State.reset.params = Params.default ∧ ∀ a, bufByte State.reset a = Config.bufDraw 0 a

/-- The reset event, at any step and in any state: every register at its reset value, the command in
flight abandoned with no completion (70_reset_and_hazards.md R1200), every byte of BUF at a new draw that
does not depend on what it held (R1201), and the parameters kept (46_system.md R1013). The counter that
names the draw, the parameters as a record, and the program, the schedule and the values read that stay
are the model's form (assumption logs 1, 2, 3 and 4). -/
def Obligations.ResetEventAbandonsTheCommand : Prop :=
  ∀ (s : State) (rest : List Turn), s.schedule = .reset :: rest → ∃ t, step s = .next t ∧
    (∀ off : BitVec 13, off.toNat / 4 < 0x1000 / 4 →
      hostRead t off = if off.toNat / 4 = 0 then 0x4C574301#32 else 0#32) ∧
    (∀ i : Fin 12, t.key[i] = 0#32) ∧
    t.seq = .idle ∧ irq t = false ∧ t.done = false ∧ t.dout = zero4 ∧ t.tag = zero4 ∧
    (∀ a, bufByte t a = Config.bufDraw (s.resets + 1) a) ∧ t.resets = s.resets + 1 ∧
    t.params = s.params ∧ t.program = s.program ∧ t.schedule = rest ∧ t.reads = s.reads

/-! ### Every command -/

/-- Every command in flight completes in one step with a code, DONE = 1 and the sequencer IDLE, after
which no second completion happens; a code other than OK changed STATUS only (60_exceptions.md R1100).
That a turn of Complete while IDLE is a step that changes nothing, where 46_system.md R1010 does not enable
it, is the model's choice (assumption log 3). -/
def Obligations.EveryCommandCompletesOnce : Prop :=
  ∀ (s : State) (w : Word), s.seq = .busy w → ∃ t, completeTurn s = .next t ∧
    t.done = true ∧ t.seq = .idle ∧ completeTurn t = .next t ∧
    (t.err ≠ .ok → t = { s with err := t.err, done := true, seq := .idle })

/-- Which commands end with CONFIG and with PRECOND, and that only a decryption whose regions fit can
end with AUTH (60_exceptions.md R1103, R1104, R1110). -/
def Obligations.ErrorCodesAndTheirCauses : Prop :=
  ∀ (s t : State) (w : Word), s.seq = .busy w → completeTurn s = .next t →
    (t.err = .config ↔
      ∃ n rounds, decode w = .ok (.skinnyEnc n 0 rounds) ∨ decode w = .ok (.skinnyDec n 0 rounds)) ∧
    (t.err = .precond ↔
      ((∃ m, decode w = .ok (.skaeadEnc m) ∨ decode w = .ok (.skaeadDec m)) ∨
        decode w = .ok .cofbEnc ∨ decode w = .ok .cofbDec) ∧ ¬ RegionsFit s) ∧
    (t.err = .auth →
      ((∃ m, decode w = .ok (.skaeadDec m)) ∨ decode w = .ok .cofbDec) ∧ RegionsFit s)

/-- What no command changes, and which command alone may change what: CLEAR alone changes the operand
registers and WERR, only a block-cipher command or CLEAR changes DOUT, only an AEAD encryption or CLEAR
changes TAG, and only an AEAD command or CLEAR changes BUF (10_state.md R133, R134; 20_memory.md R223).
-/
def Obligations.CommandsWriteOnlyTheirOutputs : Prop :=
  ∀ (i : Instr) (s t : State), exec i s = .next t →
    t.params = s.params ∧ t.cmd = s.cmd ∧ t.doneIe = s.doneIe ∧ t.werrIe = s.werrIe ∧
    t.resets = s.resets ∧ t.program = s.program ∧ t.schedule = s.schedule ∧ t.reads = s.reads ∧
    (i ≠ .clear → KeepsOperands s t) ∧
    (i ∈ [.nop, .cofbEnc, .cofbDec] ∨ (∃ m, i = .skaeadEnc m ∨ i = .skaeadDec m) →
      t.dout = s.dout) ∧
    (i ≠ .clear → i ≠ .cofbEnc → (∀ m, i ≠ .skaeadEnc m) → t.tag = s.tag) ∧
    (i ∈ [.nop, .gift64Enc, .gift64Dec, .gift128Enc, .gift128Dec, .gift128bsEnc, .gift128bsDec] ∨
        (∃ n z rounds, i = .skinnyEnc n z rounds ∨ i = .skinnyDec n z rounds) →
      KeepsBuf s t) ∧
    (i ≠ .clear → ∀ a, ¬ inNibRegion s.outPtr.toNat s.msgLen.toNat a → bufByte t a = bufByte s a)

/-- The reset state is well formed. -/
def Obligations.ResetStateIsWellFormed : Prop := Inv State.reset = true

/-- Every step, of the host, of the sequencer or of the platform, keeps a well-formed state well formed:
legal parameters, BUF in canonical form within BUF_BYTES, ERR = 0 while DONE = 0, and while BUSY both
DONE = 0 and CMD the word in flight (10_state.md R112, R150, R160-R162). -/
def Obligations.EveryStepKeepsTheStateWellFormed : Prop :=
  ∀ s : State, Inv s = true → ∃ t, step s = .next t ∧ Inv t = true

/-- However many turns the host takes while a command is in flight, the command completes with the same
code and the same outputs, and the operand registers are the same (46_system.md R1011, 20_memory.md
R241). -/
def Obligations.HostCannotDisturbARunningCommand : Prop :=
  ∀ (s : State) (w : Word) (k : Nat) (rest : List Turn), s.seq = .busy w →
    ∃ t u : State,
      step { s with schedule := .complete :: rest } = .next t ∧
      Host.Core.run Sys2Proof.core (k + 1)
        { s with schedule := List.replicate k Turn.host ++ .complete :: rest } = .next u ∧
      SameCommandState t u ∧ u.err = t.err ∧ u.done = true ∧ u.seq = .idle

/-- A command in flight completes in every run without a reset, within one step more than the turns the
schedule still names (70_reset_and_hazards.md R1230; the schedule and its default turn are the model's
form of weak fairness, assumption log 3). -/
def Obligations.CommandInFlightCompletes : Prop :=
  ∀ (s : State) (w : Word), s.seq = .busy w → Turn.reset ∉ s.schedule →
    ∃ (k : Nat) (t : State), k ≤ s.schedule.length + 1 ∧
      Host.Core.run Sys2Proof.core k s = .next t ∧ t.seq = .idle ∧ t.done = true ∧ t.cmd = s.cmd

/-! ### System commands -/

/-- NOP completes with no effect; a word with OP 0x00 and any other bit is illegal; reset does not launch
the NOP that CMD then holds (46_system.md R1001). -/
def Obligations.NopHasNoEffect : Prop :=
  decode 0x00000000#32 = .ok .nop ∧
  (∀ w : Word, fieldOp w = 0x00#8 → w ≠ 0x00000000#32 → ∃ e, decode w = .error e) ∧
  State.reset.cmd = 0x00000000#32 ∧ State.reset.seq = .idle ∧
  ∀ s : State, exec .nop s = .next { s with err := .ok, done := true, seq := .idle } ∧
    ∀ t, exec .nop s = .next t → s.werr = false → statusWord t = 0x00000002#32

/-- CLEAR zeroises the data registers and every byte of BUF, clears WERR and keeps IRQ_EN and CMD
(46_system.md R1002). -/
def Obligations.ClearZeroisesEverything : Prop :=
  decode 0x00000001#32 = .ok .clear ∧
  ∀ s : State, ∃ t, exec .clear s = .next t ∧
    (∀ i : Fin 12, t.key[i] = 0#32) ∧
    (∀ i : Fin 4, t.nonce[i] = 0#32 ∧ t.din[i] = 0#32 ∧ t.dout[i] = 0#32 ∧ t.tag[i] = 0#32) ∧
    t.adPtr = 0#32 ∧ t.adLen = 0#32 ∧ t.msgPtr = 0#32 ∧ t.msgLen = 0#32 ∧ t.outPtr = 0#32 ∧
    (∀ a, a < s.params.bufBytes → bufByte t a = 0x00#8) ∧
    (s.buf.wf s.params.bufBytes = true → ∀ a, s.params.bufBytes ≤ a → bufByte t a = bufByte s a) ∧
    t.werr = false ∧ t.err = .ok ∧ t.done = true ∧ t.seq = .idle ∧
    t.doneIe = s.doneIe ∧ t.werrIe = s.werrIe ∧ t.cmd = s.cmd ∧
    t.params = s.params ∧ t.resets = s.resets ∧ t.program = s.program ∧
    t.schedule = s.schedule ∧ t.reads = s.reads

/-! ### GIFT, table-driven -/

/-- The tables of GS and S4, the S8 table as its circuit gives it, the inverse tables as the inverses of
their S-boxes, and that GS is no involution (41_gift.md R503, R504, 43_skinny.md R702-R704). -/
def Obligations.SboxTablesAreInverses : Prop :=
  (List.range 16).map (fun x => giftSbox (BitVec.ofNat 4 x)) =
    [0x1#4, 0xA#4, 0x4#4, 0xC#4, 0x6#4, 0xF#4, 0x3#4, 0x9#4, 0x2#4, 0xD#4, 0xB#4, 0x7#4, 0x5#4,
      0x0#4, 0x8#4, 0xE#4] ∧
  (List.range 16).map (fun x => skSbox4 (BitVec.ofNat 4 x)) =
    [0xC#4, 0x6#4, 0x9#4, 0x0#4, 0x1#4, 0xA#4, 0x2#4, 0xB#4, 0x3#4, 0x8#4, 0x5#4, 0xD#4, 0x4#4,
      0xE#4, 0x7#4, 0xF#4] ∧
  (∀ x : Nibble, giftSboxInv (giftSbox x) = x ∧ giftSbox (giftSboxInv x) = x) ∧
  giftSbox (giftSbox 0x0#4) = 0xA#4 ∧
  (∀ x : Nibble, skSbox4Inv (skSbox4 x) = x ∧ skSbox4 (skSbox4Inv x) = x) ∧
  (∀ x : Byte, skSbox8 x = skSbox8Circuit x ∧ skSbox8Inv (skSbox8 x) = x ∧
    skSbox8 (skSbox8Inv x) = x)

/-- PermBits moves bit i to bit P_N(i), and InvPermBits moves it back (41_gift.md R506). -/
def Obligations.GiftPermBitsMovesEachBit : Prop :=
  (∀ (b : BitVec 64) (i : Nat), i < 64 →
    (giftPermBits b).getLsbD
      (4 * (i / 16) + 16 * ((3 * ((i % 16) / 4) + i % 4) % 4) + i % 4) = b.getLsbD i ∧
    (giftInvPermBits b).getLsbD i =
      b.getLsbD (4 * (i / 16) + 16 * ((3 * ((i % 16) / 4) + i % 4) % 4) + i % 4)) ∧
  (∀ (b : BitVec 128) (i : Nat), i < 128 →
    (giftPermBits b).getLsbD
      (4 * (i / 16) + 32 * ((3 * ((i % 16) / 4) + i % 4) % 4) + i % 4) = b.getLsbD i ∧
    (giftInvPermBits b).getLsbD i =
      b.getLsbD (4 * (i / 16) + 32 * ((3 * ((i % 16) / 4) + i % 4) % 4) + i % 4))

/-- The key words, the round-key extraction, the key update and AddRoundKey, word by word and bit by bit
(41_gift.md R510-R513). -/
def Obligations.GiftRoundKeysBitByBit : Prop :=
  (∀ k : Block,
    (∀ i, i < 8 → giftKeyWord k i = k.extractLsb' (16 * i) 16) ∧
    giftRoundKey64 k = (giftKeyWord k 1, giftKeyWord k 0) ∧
    giftRoundKey128 k =
      (giftKeyWord k 5 ++ giftKeyWord k 4, giftKeyWord k 1 ++ giftKeyWord k 0)) ∧
  (∀ k : Block,
    giftKeyWord (giftKeyUpdate k) 7 = (giftKeyWord k 1).rotateRight 2 ∧
    giftKeyWord (giftKeyUpdate k) 6 = (giftKeyWord k 0).rotateRight 12 ∧
    ∀ i, i < 6 → giftKeyWord (giftKeyUpdate k) i = giftKeyWord k (i + 2)) ∧
  (∀ (b : BitVec 64) (u v : BitVec 16) (c : BitVec 6) (i : Nat), i < 16 →
    let b' := giftAddRoundKey64 b (u, v) c
    b'.getLsbD (4 * i) = (b.getLsbD (4 * i) ^^ v.getLsbD i) ∧
    b'.getLsbD (4 * i + 1) = (b.getLsbD (4 * i + 1) ^^ u.getLsbD i) ∧
    b'.getLsbD (4 * i + 2) = b.getLsbD (4 * i + 2) ∧
    b'.getLsbD (4 * i + 3) =
      (b.getLsbD (4 * i + 3) ^^ (if i ≤ 5 then c.getLsbD i else decide (i = 15)))) ∧
  (∀ (b : BitVec 128) (u v : BitVec 32) (c : BitVec 6) (i : Nat), i < 32 →
    let b' := giftAddRoundKey128 b (u, v) c
    b'.getLsbD (4 * i) = b.getLsbD (4 * i) ∧
    b'.getLsbD (4 * i + 1) = (b.getLsbD (4 * i + 1) ^^ v.getLsbD i) ∧
    b'.getLsbD (4 * i + 2) = (b.getLsbD (4 * i + 2) ^^ u.getLsbD i) ∧
    b'.getLsbD (4 * i + 3) =
      (b.getLsbD (4 * i + 3) ^^ (if i ≤ 5 then c.getLsbD i else decide (i = 31))))

/-- Encryption and decryption as the loops over rounds that the rules write: round r uses the key state
after r updates and RC[r], and decryption takes the rounds last to first; SubCells and its inverse nibble
by nibble (41_gift.md R505, R514, R520, R521). -/
def Obligations.GiftRunsItsRoundsInOrder : Prop :=
  (∀ (b : BitVec 64) (j : Nat), j < 16 →
    (giftSubCells b).extractLsb' (4 * j) 4 = giftSbox (b.extractLsb' (4 * j) 4) ∧
    (giftInvSubCells b).extractLsb' (4 * j) 4 = giftSboxInv (b.extractLsb' (4 * j) 4)) ∧
  (∀ (b : BitVec 128) (j : Nat), j < 32 →
    (giftSubCells b).extractLsb' (4 * j) 4 = giftSbox (b.extractLsb' (4 * j) 4) ∧
    (giftInvSubCells b).extractLsb' (4 * j) 4 = giftSboxInv (b.extractLsb' (4 * j) 4)) ∧
  (∀ (p : BitVec 64) (k : Block),
    giftEnc64 p k = (List.range 28).foldl (fun b r =>
      giftAddRoundKey64 (giftPermBits (giftSubCells b)) (giftRoundKey64 (giftKeyUpdate^[r] k))
        (roundConstant r)) p ∧
    giftDec64 p k = (List.range 28).reverse.foldl (fun b r =>
      giftInvSubCells (giftInvPermBits (giftAddRoundKey64 b
        (giftRoundKey64 (giftKeyUpdate^[r] k)) (roundConstant r)))) p) ∧
  (∀ p k : Block,
    giftEnc128 p k = (List.range 40).foldl (fun b r =>
      giftAddRoundKey128 (giftPermBits (giftSubCells b)) (giftRoundKey128 (giftKeyUpdate^[r] k))
        (roundConstant r)) p ∧
    giftDec128 p k = (List.range 40).reverse.foldl (fun b r =>
      giftInvSubCells (giftInvPermBits (giftAddRoundKey128 b
        (giftRoundKey128 (giftKeyUpdate^[r] k)) (roundConstant r)))) p)

/-- Decryption inverts encryption and encryption inverts decryption, at both widths (41_gift.md R522). -/
def Obligations.GiftRoundTrip : Prop :=
  (∀ (p : BitVec 64) (k : Block),
    giftDec64 (giftEnc64 p k) k = p ∧ giftEnc64 (giftDec64 p k) k = p) ∧
  (∀ p k : Block, giftDec128 (giftEnc128 p k) k = p ∧ giftEnc128 (giftDec128 p k) k = p)

/-- GIFT64.ENC and GIFT64.DEC: the result in DOUT0 and DOUT1, DOUT2 and DOUT3 zero, everything else
kept, with the examples of the rules (41_gift.md R540, R541). -/
def Obligations.Gift64CommandsWriteTheirResult : Prop :=
  decode 0x00000010#32 = .ok .gift64Enc ∧
  (∀ w : Word, fieldOp w = 0x10#8 → w ≠ 0x00000010#32 → ∃ e, decode w = .error e) ∧
  decode 0x00000011#32 = .ok .gift64Dec ∧
  giftEnc64 0#64 0#128 = 0xF62BC3EF34F775AC#64 ∧
  giftDec64 0xF62BC3EF34F775AC#64 0#128 = 0#64 ∧
  ∀ s : State,
    (∃ t, exec .gift64Enc s = .next t ∧
      t.dout[0] ++ t.dout[1] =
        giftEnc64 (s.din[0] ++ s.din[1]) (s.key[0] ++ s.key[1] ++ s.key[2] ++ s.key[3]) ∧
      t.dout[2] = 0#32 ∧ t.dout[3] = 0#32 ∧
      CompletesWith .ok s t ∧ t.tag = s.tag ∧ KeepsBuf s t) ∧
    (∃ t, exec .gift64Dec s = .next t ∧
      t.dout[0] ++ t.dout[1] =
        giftDec64 (s.din[0] ++ s.din[1]) (s.key[0] ++ s.key[1] ++ s.key[2] ++ s.key[3]) ∧
      t.dout[2] = 0#32 ∧ t.dout[3] = 0#32 ∧
      CompletesWith .ok s t ∧ t.tag = s.tag ∧ KeepsBuf s t)

/-- GIFT128.ENC and GIFT128.DEC: the result in DOUT0..DOUT3, everything else kept, with the examples of
the rules (41_gift.md R542, R543). -/
def Obligations.Gift128CommandsWriteTheirResult : Prop :=
  decode 0x00000012#32 = .ok .gift128Enc ∧
  decode 0x00000013#32 = .ok .gift128Dec ∧
  giftEnc128 0#128 0#128 = 0xCD0BD738388AD3F668B15A36CEB6FF92#128 ∧
  giftDec128 0xCD0BD738388AD3F668B15A36CEB6FF92#128 0#128 = 0#128 ∧
  ∀ s : State,
    (∃ t, exec .gift128Enc s = .next t ∧
      t.dout[0] ++ t.dout[1] ++ t.dout[2] ++ t.dout[3] =
        giftEnc128 (s.din[0] ++ s.din[1] ++ s.din[2] ++ s.din[3])
          (s.key[0] ++ s.key[1] ++ s.key[2] ++ s.key[3]) ∧
      CompletesWith .ok s t ∧ t.tag = s.tag ∧ KeepsBuf s t ∧
      (s.params.bsLoading = .equiv → ∀ u, exec .gift128bsEnc s = .next u → u.dout = t.dout)) ∧
    (∃ t, exec .gift128Dec s = .next t ∧
      t.dout[0] ++ t.dout[1] ++ t.dout[2] ++ t.dout[3] =
        giftDec128 (s.din[0] ++ s.din[1] ++ s.din[2] ++ s.din[3])
          (s.key[0] ++ s.key[1] ++ s.key[2] ++ s.key[3]) ∧
      CompletesWith .ok s t ∧ t.tag = s.tag ∧ KeepsBuf s t)

/-- The machine form of the round trip: encrypt, copy DOUT to DIN, decrypt, and the block is back, for
each of the three GIFT engines (41_gift.md R522, 42_gift128_bitsliced.md R632). -/
def Obligations.DecryptCommandRecoversTheBlock : Prop :=
  ∀ s : State,
    (∃ t u, exec .gift64Enc s = .next t ∧ exec .gift64Dec { t with din := t.dout } = .next u ∧
      u.dout[0] = s.din[0] ∧ u.dout[1] = s.din[1]) ∧
    (∃ t u, exec .gift128Enc s = .next t ∧ exec .gift128Dec { t with din := t.dout } = .next u ∧
      u.dout = s.din) ∧
    (∃ t u, exec .gift128bsEnc s = .next t ∧
      exec .gift128bsDec { t with din := t.dout } = .next u ∧ u.dout = s.din)

/-! ### GIFT-128, bit-sliced -/

/-- Under EQUIV the bit-sliced engine is the table-driven GIFT-128 (42_gift128_bitsliced.md R630). -/
def Obligations.BitslicedEqualsTableDriven : Prop :=
  ∀ x k : Block, giftBsEnc .equiv x k = giftEnc128 x k ∧ giftBsDec .equiv x k = giftDec128 x k

/-- Under SLICED the bit-sliced engine is the table-driven one between the transposition T and its
inverse, T bit by bit (42_gift128_bitsliced.md R600-R602, R631, its first sentence and its example). -/
def Obligations.SlicedLoadingIsATransposition : Prop :=
  (∀ x k : Block, giftBsEnc .sliced x k = bsTransposeInv (giftEnc128 (bsTranspose x) k)) ∧
  (∀ x : Block, bsTransposeInv (bsTranspose x) = x ∧ bsTranspose (bsTransposeInv x) = x) ∧
  (∀ (x : Block) (i : Nat), i < 128 →
    (bsTranspose x).getLsbD i = x.getLsbD (32 * (3 - i % 4) + i / 4)) ∧
  bsTranspose 0x000102030405060708090A0B0C0D0E0F#128 = 0x0000CA000000CA0F0000CAF00000CAFF#128

/-- Under SLICED the engines agree on X exactly when GIFT-128 under the key commutes with T at X, and a
fixed point of T is not enough: T(0) = 0, and under the key 0 they differ there (42_gift128_bitsliced.md
R640 with V3.1 and V3.2). R631's sentence that they agree exactly when T(X) = X holds of the slices that the
two loadings give the core, which is the first clause; of the ciphertexts R640 contradicts it (assumption
log 12), and it is not stated. -/
def Obligations.SlicedDiffersAtAFixedPointOfT : Prop :=
  (∀ x : Block, bsLoad .sliced x = bsLoad .equiv x ↔ bsTranspose x = x) ∧
  (∀ x k : Block, giftBsEnc .sliced x k = giftEnc128 x k ↔
    giftEnc128 (bsTranspose x) k = bsTranspose (giftEnc128 x k)) ∧
  bsTranspose 0#128 = 0#128 ∧
  giftBsEnc .sliced 0#128 0#128 = 0x5E8E3A2E1697A77DCC0B89DCD97A64EE#128 ∧
  giftEnc128 0#128 0#128 = 0xCD0BD738388AD3F668B15A36CEB6FF92#128 ∧
  giftBsEnc .sliced 0#128 0#128 ≠ giftEnc128 0#128 0#128

/-- Bit-sliced decryption inverts bit-sliced encryption under either loading (42_gift128_bitsliced.md
R632). -/
def Obligations.BitslicedRoundTrip : Prop :=
  ∀ (loading : BsLoading) (x k : Block), giftBsDec loading (giftBsEnc loading x k) k = x

/-- GIFT128BS.ENC and GIFT128BS.DEC: the result in DOUT0..DOUT3 under the loading of the machine's
parameters, everything else kept, with the examples of the rules (42_gift128_bitsliced.md R640, R641).
-/
def Obligations.BitslicedCommandsWriteTheirResult : Prop :=
  decode 0x00000014#32 = .ok .gift128bsEnc ∧
  decode 0x00000015#32 = .ok .gift128bsDec ∧
  giftBsEnc .equiv 0#128 0#128 = 0xCD0BD738388AD3F668B15A36CEB6FF92#128 ∧
  giftBsEnc .sliced 0#128 0#128 = 0x5E8E3A2E1697A77DCC0B89DCD97A64EE#128 ∧
  giftBsDec .equiv 0xCD0BD738388AD3F668B15A36CEB6FF92#128 0#128 = 0#128 ∧
  ∀ s : State,
    (∃ t, exec .gift128bsEnc s = .next t ∧
      t.dout[0] ++ t.dout[1] ++ t.dout[2] ++ t.dout[3] =
        giftBsEnc s.params.bsLoading (s.din[0] ++ s.din[1] ++ s.din[2] ++ s.din[3])
          (s.key[0] ++ s.key[1] ++ s.key[2] ++ s.key[3]) ∧
      CompletesWith .ok s t ∧ t.tag = s.tag ∧ KeepsBuf s t) ∧
    (∃ t, exec .gift128bsDec s = .next t ∧
      t.dout[0] ++ t.dout[1] ++ t.dout[2] ++ t.dout[3] =
        giftBsDec s.params.bsLoading (s.din[0] ++ s.din[1] ++ s.din[2] ++ s.din[3])
          (s.key[0] ++ s.key[1] ++ s.key[2] ++ s.key[3]) ∧
      CompletesWith .ok s t ∧ t.tag = s.tag ∧ KeepsBuf s t)

/-! ### SKINNY -/

/-- SKINNY as the loops over rounds that the rules write: round r uses the tweakey arrays after r updates
and RC[r], and decryption takes the rounds last to first (43_skinny.md R715, R720, R721); and every layer
and the tweakey schedule cell by cell (R701, R705-R714). -/
def Obligations.SkinnyRunsItsRoundsInOrder : Prop :=
  (∀ (v : BitVec 64) (i : Nat), i < 16 → skCell .n64 v i = v.extractLsb' (4 * (15 - i)) 4) ∧
  (∀ (v : BitVec 128) (i : Nat), i < 16 → skCell .n128 v i = v.extractLsb' (8 * (15 - i)) 8) ∧
  (∀ x : Nibble, skSbox .n64 x = skSbox4 x ∧ skSboxInv .n64 x = skSbox4Inv x) ∧
  (∀ x : Byte, skSbox .n128 x = skSbox8 x ∧ skSboxInv .n128 x = skSbox8Inv x) ∧
  (∀ (n : BlockSize) (s : BitVec (blockBits n)) (rc : BitVec 6) (i : Nat), i < 16 →
    skCell n (skSubCells n s) i = skSbox n (skCell n s i) ∧
    skCell n (skInvSubCells n s) i = skSboxInv n (skCell n s i) ∧
    skCell n (skAddConstants n s rc) i = skCell n s i ^^^
      (if i = 0 then (rc.extractLsb' 0 4).setWidth (cellBits n)
        else if i = 4 then (rc.extractLsb' 4 2).setWidth (cellBits n)
        else if i = 8 then 2#(cellBits n) else 0#(cellBits n))) ∧
  (∀ (n : BlockSize) (s : BitVec (blockBits n)) (r c : Nat), r < 4 → c < 4 →
    skCell n (skShiftRows n s) (4 * r + c) = skCell n s (4 * r + (c + 4 - r) % 4) ∧
    skCell n (skInvShiftRows n s) (4 * r + c) = skCell n s (4 * r + (c + r) % 4)) ∧
  (∀ (n : BlockSize) (s : BitVec (blockBits n)) (j : Nat), j < 4 →
    let a := skCell n s j
    let b := skCell n s (4 + j)
    let c := skCell n s (8 + j)
    let d := skCell n s (12 + j)
    skCell n (skMixColumns n s) j = a ^^^ c ^^^ d ∧
    skCell n (skMixColumns n s) (4 + j) = a ∧
    skCell n (skMixColumns n s) (8 + j) = b ^^^ c ∧
    skCell n (skMixColumns n s) (12 + j) = a ^^^ c ∧
    skCell n (skInvMixColumns n s) j = b ∧
    skCell n (skInvMixColumns n s) (4 + j) = b ^^^ c ^^^ d ∧
    skCell n (skInvMixColumns n s) (8 + j) = b ^^^ d ∧
    skCell n (skInvMixColumns n s) (12 + j) = a ^^^ d) ∧
  (∀ (n : BlockSize) (z : Nat) (bits : BitVec 384),
    (skLoadTweakey n z bits).tk1 = bits.extractLsb' (384 - blockBits n) (blockBits n) ∧
    (2 ≤ z → (skLoadTweakey n z bits).tk2 =
      bits.extractLsb' (384 - 2 * blockBits n) (blockBits n)) ∧
    (3 ≤ z → (skLoadTweakey n z bits).tk3 =
      bits.extractLsb' (384 - 3 * blockBits n) (blockBits n))) ∧
  (∀ (n : BlockSize) (z : Nat) (s : BitVec (blockBits n)) (tk : Tweakey n) (i : Nat), i < 16 →
    skCell n (skAddRoundTweakey n z s tk) i = skCell n s i ^^^
      (if i < 8 then skCell n tk.tk1 i ^^^
        (if 2 ≤ z then skCell n tk.tk2 i else 0#(cellBits n)) ^^^
        (if 3 ≤ z then skCell n tk.tk3 i else 0#(cellBits n)) else 0#(cellBits n))) ∧
  (∀ (n : BlockSize) (tk : Tweakey n) (i j : Nat),
    [9, 15, 8, 13, 10, 14, 12, 11, 0, 1, 2, 3, 4, 5, 6, 7][i]? = some j →
    skCell n (skUpdateTweakey n tk).tk1 i = skCell n tk.tk1 j ∧
    skCell n (skUpdateTweakey n tk).tk2 i =
      (if i < 8 then skLfsr2 n (skCell n tk.tk2 j) else skCell n tk.tk2 j) ∧
    skCell n (skUpdateTweakey n tk).tk3 i =
      (if i < 8 then skLfsr3 n (skCell n tk.tk3 j) else skCell n tk.tk3 j)) ∧
  (∀ x : Nibble,
    skLfsr2 .n64 x = x.extractLsb' 0 3 ++ (x.extractLsb' 3 1 ^^^ x.extractLsb' 2 1) ∧
    skLfsr3 .n64 x = (x.extractLsb' 0 1 ^^^ x.extractLsb' 3 1) ++ x.extractLsb' 1 3) ∧
  (∀ x : Byte,
    skLfsr2 .n128 x = x.extractLsb' 0 7 ++ (x.extractLsb' 7 1 ^^^ x.extractLsb' 5 1) ∧
    skLfsr3 .n128 x = (x.extractLsb' 0 1 ^^^ x.extractLsb' 6 1) ++ x.extractLsb' 1 7) ∧
  ∀ (n : BlockSize) (z rounds : Nat) (bits : BitVec 384) (x : BitVec (blockBits n)),
    skinnyEncrypt n z rounds bits x = (List.range rounds).foldl (fun s r =>
      skMixColumns n (skShiftRows n (skAddRoundTweakey n z
        (skAddConstants n (skSubCells n s) (roundConstant r))
        ((skUpdateTweakey n)^[r] (skLoadTweakey n z bits))))) x ∧
    skinnyDecrypt n z rounds bits x = (List.range rounds).reverse.foldl (fun s r =>
      skInvSubCells n (skAddConstants n (skAddRoundTweakey n z
        (skInvShiftRows n (skInvMixColumns n s))
        ((skUpdateTweakey n)^[r] (skLoadTweakey n z bits))) (roundConstant r))) x

/-- Decryption inverts encryption for every block size, tweakey count and round count (43_skinny.md
R722). -/
def Obligations.SkinnyRoundTrip : Prop :=
  ∀ (n : BlockSize) (z rounds : Nat) (bits : BitVec 384) (x : BitVec (blockBits n)),
    skinnyDecrypt n z rounds bits (skinnyEncrypt n z rounds bits x) = x

/-- SKINNY reads the first z·n bits of KEYBITS and ignores the rest (43_skinny.md R710). -/
def Obligations.SkinnyIgnoresUnusedKeyBits : Prop :=
  ∀ (n : BlockSize) (z rounds : Nat) (bits bits' : BitVec 384) (x : BitVec (blockBits n)),
    1 ≤ z → z ≤ 3 → bits >>> (384 - z * blockBits n) = bits' >>> (384 - z * blockBits n) →
    skinnyEncrypt n z rounds bits x = skinnyEncrypt n z rounds bits' x ∧
    skinnyDecrypt n z rounds bits x = skinnyDecrypt n z rounds bits' x

/-- SKINNY.ENC and SKINNY.DEC by block size: with Z = 0 they end with CONFIG and change STATUS only; with
Z in 1..3 they write the result of the rounds that ROUNDS, or the standard count, gives
(43_skinny.md R740, R741). -/
def Obligations.SkinnyCommandsWriteTheirResult : Prop :=
  (∀ w : Word, w &&& 0xFFF800FF#32 = 0x00000020#32 → decode w =
    .ok (.skinnyEnc (if w.getLsbD 18 then .n128 else .n64) (w.extractLsb' 16 2).toNat
      (w.extractLsb' 8 8).toNat)) ∧
  (∀ w : Word, w &&& 0xFFF800FF#32 = 0x00000021#32 → decode w =
    .ok (.skinnyDec (if w.getLsbD 18 then .n128 else .n64) (w.extractLsb' 16 2).toNat
      (w.extractLsb' 8 8).toNat)) ∧
  (∀ w : Word, (fieldOp w = 0x20#8 ∨ fieldOp w = 0x21#8) →
    (w.getLsbD 19 = true ∨ w.extractLsb' 22 10 ≠ 0#10) → ∃ e, decode w = .error e) ∧
  skinnyEncrypt .n64 1 32 (0xF5269826FC681238#64 ++ 0#320) 0x06034F957724D19D#64 =
    0xBB39DFB2429B8AC7#64 ∧
  skinnyDecrypt .n128 3 56
    0xDF889548CFC7EA52D296339301797449AB588A34A47F1AB2DFE9C8293FBEA9A5AB1AFAC2611012CD8CEF952618C3EBE8#384
    0x94ECF589E2017C601B38C6346A10DCFA#128 = 0xA3994B66AD85A3459F44E92B08F550CB#128 ∧
  ∀ (s : State) (z rounds : Nat),
    let key := s.key[0] ++ s.key[1] ++ s.key[2] ++ s.key[3] ++ s.key[4] ++ s.key[5] ++ s.key[6] ++
      s.key[7] ++ s.key[8] ++ s.key[9] ++ s.key[10] ++ s.key[11]
    let r64 := if rounds ≠ 0 then rounds else if z = 1 then 32 else if z = 2 then 36 else 40
    let r128 := if rounds ≠ 0 then rounds else if z = 1 then 40 else if z = 2 then 48 else 56
    (z = 0 → ∀ n,
      exec (.skinnyEnc n z rounds) s = .next { s with err := .config, done := true, seq := .idle } ∧
      exec (.skinnyDec n z rounds) s = .next { s with err := .config, done := true, seq := .idle }) ∧
    (1 ≤ z → z ≤ 3 →
      (∃ t, exec (.skinnyEnc .n64 z rounds) s = .next t ∧
        t.dout[0] ++ t.dout[1] = skinnyEncrypt .n64 z r64 key (s.din[0] ++ s.din[1]) ∧
        t.dout[2] = 0#32 ∧ t.dout[3] = 0#32 ∧
        CompletesWith .ok s t ∧ t.tag = s.tag ∧ KeepsBuf s t) ∧
      (∃ t, exec (.skinnyDec .n64 z rounds) s = .next t ∧
        t.dout[0] ++ t.dout[1] = skinnyDecrypt .n64 z r64 key (s.din[0] ++ s.din[1]) ∧
        t.dout[2] = 0#32 ∧ t.dout[3] = 0#32 ∧
        CompletesWith .ok s t ∧ t.tag = s.tag ∧ KeepsBuf s t) ∧
      (∃ t, exec (.skinnyEnc .n128 z rounds) s = .next t ∧
        t.dout[0] ++ t.dout[1] ++ t.dout[2] ++ t.dout[3] =
          skinnyEncrypt .n128 z r128 key (s.din[0] ++ s.din[1] ++ s.din[2] ++ s.din[3]) ∧
        CompletesWith .ok s t ∧ t.tag = s.tag ∧ KeepsBuf s t) ∧
      (∃ t, exec (.skinnyDec .n128 z rounds) s = .next t ∧
        t.dout[0] ++ t.dout[1] ++ t.dout[2] ++ t.dout[3] =
          skinnyDecrypt .n128 z r128 key (s.din[0] ++ s.din[1] ++ s.din[2] ++ s.din[3]) ∧
        CompletesWith .ok s t ∧ t.tag = s.tag ∧ KeepsBuf s t))

/-! ### Shared primitives and BUF strings -/

/-- The round constants: the 62 values of the table, then 0x00, a period of 63, and never 0x3F
(40_primitives.md R411). -/
def Obligations.RoundConstantsHavePeriod63 : Prop :=
  (List.range 62).map roundConstant =
    [0x01#6, 0x03#6, 0x07#6, 0x0F#6, 0x1F#6, 0x3E#6, 0x3D#6, 0x3B#6, 0x37#6, 0x2F#6,
      0x1E#6, 0x3C#6, 0x39#6, 0x33#6, 0x27#6, 0x0E#6, 0x1D#6, 0x3A#6, 0x35#6, 0x2B#6,
      0x16#6, 0x2C#6, 0x18#6, 0x30#6, 0x21#6, 0x02#6, 0x05#6, 0x0B#6, 0x17#6, 0x2E#6,
      0x1C#6, 0x38#6, 0x31#6, 0x23#6, 0x06#6, 0x0D#6, 0x1B#6, 0x36#6, 0x2D#6, 0x1A#6,
      0x34#6, 0x29#6, 0x12#6, 0x24#6, 0x08#6, 0x11#6, 0x22#6, 0x04#6, 0x09#6, 0x13#6,
      0x26#6, 0x0C#6, 0x19#6, 0x32#6, 0x25#6, 0x0A#6, 0x15#6, 0x2A#6, 0x14#6, 0x28#6,
      0x10#6, 0x20#6] ∧
  roundConstant 62 = 0x00#6 ∧ roundConstant 63 = 0x01#6 ∧
  ∀ r, roundConstant (r + 63) = roundConstant r ∧ roundConstant r ≠ 0x3F#6

/-- Doubling and tripling, their corners, and that both are bijections (40_primitives.md R420-R422). -/
def Obligations.DoublingAndTriplingAreBijections : Prop :=
  (∀ x : BitVec 64,
    double x = (if x.getLsbD 63 then (x <<< 1) ^^^ 0x000000000000001B#64 else x <<< 1) ∧
    triple x = double x ^^^ x) ∧
  double 0#64 = 0#64 ∧ triple 0#64 = 0#64 ∧
  double 0x8000000000000000#64 = 0x000000000000001B#64 ∧
  triple 0x8000000000000000#64 = 0x800000000000001B#64 ∧
  double 0xFFFFFFFFFFFFFFFF#64 = 0xFFFFFFFFFFFFFFE5#64 ∧
  Function.Bijective double ∧ Function.Bijective triple

/-- Splitting: one empty block for the empty string, else ceil(L / 32) blocks that join to the string,
all of 32 nibbles but the last, which has 1 to 32; the cipher input of a full block and of a padded partial
one; and truncation to a partial length (40_primitives.md R430, R431, R433, R434). -/
def Obligations.SplitCutsIntoBlocks : Prop :=
  split [] = [[]] ∧
  (∀ v : List Nibble, v ≠ [] →
    (split v).length = (v.length + 31) / 32 ∧ (split v).flatten = v ∧
    (∀ b ∈ (split v).dropLast, b.length = 32) ∧
    ∀ b ∈ (split v).getLast?, 1 ≤ b.length ∧ b.length ≤ 32 ∧
      (b.length = 32 ↔ v.length % 32 = 0)) ∧
  (∀ (v : Block) (t : Nat), t < 32 → (blockNibbles v)[t]? = some (v.extractLsb' (4 * (31 - t)) 4)) ∧
  (∀ v : Block, (blockNibbles v).length = 32 ∧ packNibbles (blockNibbles v) = v) ∧
  (∀ m : List Nibble, m.length = 32 → blk m = packNibbles m ∧ blockNibbles (packNibbles m) = m) ∧
  (∀ m : List Nibble, m.length < 32 → blk m = pad10 m ∧
    blockNibbles (pad10 m) = m ++ 0x8#4 :: List.replicate (31 - m.length) 0x0#4) ∧
  ∀ (m : List Nibble) (v : Block), m.length ≤ 32 →
    truncNib v m.length = (blockNibbles v).take m.length ∧
    xorTrunc m v = List.zipWith (fun p q => p ^^^ q) m (truncNib v m.length)

/-- NibRead reads the high nibble first; NibWrite places the nibbles as NibRead reads them, zeroes the
low nibble after an odd-length string, and writes no other byte (20_memory.md R220). -/
def Obligations.NibbleStringsInBuf : Prop :=
  (∀ (s : State) (a len t : Nat), t < len → (nibRead s a len)[t]? =
    some (if t % 2 = 0 then (bufByte s (a + t / 2)).extractLsb' 4 4
      else (bufByte s (a + t / 2)).extractLsb' 0 4)) ∧
  (∀ (s : State) (a len : Nat), (nibRead s a len).length = len) ∧
  ∀ (s : State) (a : Nat) (v : List Nibble),
    nibWrite a v s = { s with buf := (nibWrite a v s).buf } ∧
    nibRead (nibWrite a v s) a v.length = v ∧
    (v.length % 2 = 1 → (bufByte (nibWrite a v s) (a + v.length / 2)).extractLsb' 0 4 = 0#4) ∧
    ∀ x, x < a ∨ a + (v.length + 1) / 2 ≤ x → bufByte (nibWrite a v s) x = bufByte s x

/-! ### GIFT-COFB -/

/-- Verification of an encryption returns the message and the same tag (44_gift_cofb.md R814). -/
def Obligations.CofbRoundTrip : Prop :=
  ∀ (loading : BsLoading) (k nonce : Block) (ad msg : List Nibble),
    cofbDecrypt loading k nonce ad (cofbEncrypt loading k nonce ad msg).1 =
      (msg, (cofbEncrypt loading k nonce ad msg).2)

/-- The mask at the last block of an input by the tail class of the input and whether the message is
empty: one, two, three or four triplings (44_gift_cofb.md R811); and encryption and decryption as the loops
over the blocks that the rules write, with the mask doubled at every block but the last (R801-R804, R810,
R812). -/
def Obligations.CofbMaskSchedule : Prop :=
  (∀ (v : List Nibble) (noMessage : Bool) (delta : BitVec 64), ∀ b ∈ (split v).getLast?,
    cofbLastMask b.length noMessage delta =
      triple^[(if tailOf v.length = .fullTail then 1 else 2) + (if noMessage then 2 else 0)] delta) ∧
  ∀ (loading : BsLoading) (k nonce : Block) (ad msg : List Nibble),
    let e := fun x => giftBsEnc loading x k
    let afterAd := cofbLoop e .encrypt (msg.length == 0) (split ad)
      { y := e nonce, delta := (e nonce).extractLsb' 64 64, out := [] }
    let enc := cofbLoop e .encrypt false (blocksIfAny msg) { afterAd with out := [] }
    let dec := cofbLoop e .decrypt false (blocksIfAny msg) { afterAd with out := [] }
    cofbEncrypt loading k nonce ad msg = (enc.out, enc.y) ∧
    cofbDecrypt loading k nonce ad msg = (dec.out, dec.y)

/-- COFB.ENC: PRECOND with STATUS alone changed when a region exceeds BUF; otherwise the ciphertext at
OUT_PTR, the tag in TAG, and nothing else changed, with the example of the rule (44_gift_cofb.md R830).
-/
def Obligations.CofbEncryptCommand : Prop :=
  decode 0x00000030#32 = .ok .cofbEnc ∧
  (cofbEncrypt .sliced 0x000102030405060708090A0B0C0D0E0F#128
    0x000102030405060708090A0B0C0D0E0F#128 [] []).2 = 0x368965836D36614DE2FC24D0F801B9AF#128 ∧
  ∀ s : State,
    (¬ RegionsFit s →
      exec .cofbEnc s = .next { s with err := .precond, done := true, seq := .idle }) ∧
    (RegionsFit s → ∃ t, exec .cofbEnc s = .next t ∧
      let r := cofbEncrypt s.params.bsLoading (s.key[0] ++ s.key[1] ++ s.key[2] ++ s.key[3])
        (s.nonce[0] ++ s.nonce[1] ++ s.nonce[2] ++ s.nonce[3])
        (nibRead s s.adPtr.toNat s.adLen.toNat) (nibRead s s.msgPtr.toNat s.msgLen.toNat)
      WritesOutput r.1 s t ∧ t.tag[0] ++ t.tag[1] ++ t.tag[2] ++ t.tag[3] = r.2 ∧
      t.dout = s.dout ∧ CompletesWith .ok s t)

/-- COFB.DEC: PRECOND when a region exceeds BUF, AUTH when the tag differs, both with STATUS alone
changed; otherwise the plaintext at OUT_PTR and nothing else changed, with the example of the rule
(44_gift_cofb.md R813, R831). -/
def Obligations.CofbDecryptCommand : Prop :=
  decode 0x00000031#32 = .ok .cofbDec ∧
  (cofbDecrypt .sliced 0x000102030405060708090A0B0C0D0E0F#128
    0x000102030405060708090A0B0C0D0E0F#128 [] []).2 = 0x368965836D36614DE2FC24D0F801B9AF#128 ∧
  ∀ s : State,
    let r := cofbDecrypt s.params.bsLoading (s.key[0] ++ s.key[1] ++ s.key[2] ++ s.key[3])
      (s.nonce[0] ++ s.nonce[1] ++ s.nonce[2] ++ s.nonce[3])
      (nibRead s s.adPtr.toNat s.adLen.toNat) (nibRead s s.msgPtr.toNat s.msgLen.toNat)
    (¬ RegionsFit s →
      exec .cofbDec s = .next { s with err := .precond, done := true, seq := .idle }) ∧
    (RegionsFit s → r.2 ≠ s.tag[0] ++ s.tag[1] ++ s.tag[2] ++ s.tag[3] →
      exec .cofbDec s = .next { s with err := .auth, done := true, seq := .idle }) ∧
    (RegionsFit s → r.2 = s.tag[0] ++ s.tag[1] ++ s.tag[2] ++ s.tag[3] →
      ∃ t, exec .cofbDec s = .next t ∧ WritesOutput r.1 s t ∧ t.tag = s.tag ∧ t.dout = s.dout ∧
        CompletesWith .ok s t)

/-- Encrypting a region in place and then decrypting it in place gives back the message, leaves every
other byte of BUF as it was, and authenticates (44_gift_cofb.md R814, R830, R831; 20_memory.md R222).
-/
def Obligations.CofbInPlaceRoundTrip : Prop :=
  ∀ s : State, RegionsFit s → InPlace s →
    ∃ t u, exec .cofbEnc s = .next t ∧ exec .cofbDec t = .next u ∧ u.err = .ok ∧
      nibRead u s.msgPtr.toNat s.msgLen.toNat = nibRead s s.msgPtr.toNat s.msgLen.toNat ∧
      ∀ a, ¬ inNibRegion s.msgPtr.toNat s.msgLen.toNat a → bufByte u a = bufByte s a

/-! ### SKINNY-AEAD -/

/-- Decryption of an encryption returns the message and the same tag; the ciphertext does not depend on
the associated data; and under the two tag rules the ciphertext is the same (45_skinny_aead.md R917).
-/
def Obligations.SkinnyAeadRoundTrip : Prop :=
  ∀ (bits : MemberBits) (rule : TagRule) (member : Member) (k nonce : Block)
    (ad msg : List Nibble),
    skaeadDecrypt bits rule member k nonce ad (skaeadEncrypt bits rule member k nonce ad msg).1 =
      (msg, (skaeadEncrypt bits rule member k nonce ad msg).2) ∧
    (∀ ad', (skaeadEncrypt bits rule member k nonce ad' msg).1 =
      (skaeadEncrypt bits rule member k nonce ad msg).1) ∧
    ∀ rule', (skaeadEncrypt bits rule' member k nonce ad msg).1 =
      (skaeadEncrypt bits rule member k nonce ad msg).1

/-- The two tag rules give the same result unless the message length is a non-zero multiple of 32 nibbles;
then the string is still the same, and what stands in the tag before truncation is the cipher of the
checksum under role 5 by DOC and under role 4 by PUBLISHED (45_skinny_aead.md R915). -/
def Obligations.TagRulesDifferOnlyOnFullTails : Prop :=
  (∀ (bits : MemberBits) (member : Member) (k nonce : Block) (ad msg : List Nibble),
    tailOf msg.length ≠ .fullTail →
    skaeadEncrypt bits .doc member k nonce ad msg =
      skaeadEncrypt bits .published member k nonce ad msg ∧
    skaeadDecrypt bits .doc member k nonce ad msg =
      skaeadDecrypt bits .published member k nonce ad msg) ∧
  (∀ lastPartial : Bool, roleIndex (skaeadTagRole .doc 0 lastPartial) = 0x04#8) ∧
  (∀ (len : Nat) (lastPartial : Bool), 0 < len →
    roleIndex (skaeadTagRole .doc len lastPartial) = 0x05#8 ∧
    roleIndex (skaeadTagRole .published len true) = 0x05#8) ∧
  (∀ len : Nat, roleIndex (skaeadTagRole .published len false) = 0x04#8) ∧
  ∀ (x : SkaeadContext) (dir : Direction) (ad msg : List Nibble), tailOf msg.length = .fullTail →
    let pass := skaeadMessagePass x dir (split msg) 1#64 0#128 false
    let tka := skaeadTka x.memberBits x.nn x.k pass.lfsr
    (skaead x .doc dir ad msg).1 = (skaead x .published dir ad msg).1 ∧
    ∃ auth : Block,
      (skaead x .doc dir ad msg).2 =
        skinnyEncrypt .n128 3 56 (tka 0x05#8) pass.sigma ^^^ auth ∧
      (skaead x .published dir ad msg).2 =
        skinnyEncrypt .n128 3 56 (tka 0x04#8) pass.sigma ^^^ auth

/-- SKAEAD.ENC: PRECOND with STATUS alone changed when a region exceeds BUF; otherwise the ciphertext at
OUT_PTR, the tag in TAG by the member's width, and nothing else changed; M2 and M4 read NONCE0..NONCE2
(45_skinny_aead.md R930). -/
def Obligations.SkinnyAeadEncryptCommand : Prop :=
  (∀ w : Word, w &&& 0xFFCFFFFF#32 = 0x00000040#32 → decode w =
    .ok (.skaeadEnc (match (w.extractLsb' 20 2).toNat with
      | 0 => .m1 | 1 => .m2 | 2 => .m3 | _ => .m4))) ∧
  (∀ w : Word, fieldOp w = 0x40#8 →
    (w.extractLsb' 8 12 ≠ 0#12 ∨ w.extractLsb' 22 10 ≠ 0#10) → ∃ e, decode w = .error e) ∧
  (skaeadEncrypt Params.default.memberBits .doc .m1 0x000102030405060708090A0B0C0D0E0F#128
    0x000102030405060708090A0B0C0D0E0F#128 [] []).2 =
      .full 0x99CE68EF7B52AAD0E11C6E2FC722426D#128 ∧
  ∀ (s : State) (member : Member),
    (¬ RegionsFit s →
      exec (.skaeadEnc member) s = .next { s with err := .precond, done := true, seq := .idle }) ∧
    (RegionsFit s → ∃ t, exec (.skaeadEnc member) s = .next t ∧
      let nn := s.nonce[0] ++ s.nonce[1] ++ s.nonce[2] ++
        (if member = .m2 ∨ member = .m4 then 0#32 else s.nonce[3])
      let r := skaeadEncrypt s.params.memberBits s.params.tagRule member
        (s.key[0] ++ s.key[1] ++ s.key[2] ++ s.key[3]) nn
        (nibRead s s.adPtr.toNat s.adLen.toNat) (nibRead s s.msgPtr.toNat s.msgLen.toNat)
      WritesOutput r.1 s t ∧
      r.2 = (if member = .m1 ∨ member = .m2 then
        SkaeadTag.full (t.tag[0] ++ t.tag[1] ++ t.tag[2] ++ t.tag[3])
        else SkaeadTag.short (t.tag[0] ++ t.tag[1])) ∧
      (member = .m3 ∨ member = .m4 → t.tag[2] = 0#32 ∧ t.tag[3] = 0#32) ∧
      t.dout = s.dout ∧ CompletesWith .ok s t)

/-- SKAEAD.DEC: PRECOND when a region exceeds BUF, AUTH when the tag differs on the member's width, both
with STATUS alone changed; otherwise the plaintext at OUT_PTR and nothing else changed
(45_skinny_aead.md R914, R931). -/
def Obligations.SkinnyAeadDecryptCommand : Prop :=
  (∀ w : Word, w &&& 0xFFCFFFFF#32 = 0x00000041#32 → decode w =
    .ok (.skaeadDec (match (w.extractLsb' 20 2).toNat with
      | 0 => .m1 | 1 => .m2 | 2 => .m3 | _ => .m4))) ∧
  (∀ w : Word, fieldOp w = 0x41#8 →
    (w.extractLsb' 8 12 ≠ 0#12 ∨ w.extractLsb' 22 10 ≠ 0#10) → ∃ e, decode w = .error e) ∧
  (skaeadDecrypt Params.default.memberBits .doc .m3 0x000102030405060708090A0B0C0D0E0F#128
    0x000102030405060708090A0B0C0D0E0F#128 [] []).2 = .short 0x62B08C0557EDCC94#64 ∧
  ∀ (s : State) (member : Member),
    let nn := s.nonce[0] ++ s.nonce[1] ++ s.nonce[2] ++
      (if member = .m2 ∨ member = .m4 then 0#32 else s.nonce[3])
    let r := skaeadDecrypt s.params.memberBits s.params.tagRule member
      (s.key[0] ++ s.key[1] ++ s.key[2] ++ s.key[3]) nn
      (nibRead s s.adPtr.toNat s.adLen.toNat) (nibRead s s.msgPtr.toNat s.msgLen.toNat)
    let expected := if member = .m1 ∨ member = .m2 then
        SkaeadTag.full (s.tag[0] ++ s.tag[1] ++ s.tag[2] ++ s.tag[3])
      else SkaeadTag.short (s.tag[0] ++ s.tag[1])
    (¬ RegionsFit s →
      exec (.skaeadDec member) s = .next { s with err := .precond, done := true, seq := .idle }) ∧
    (RegionsFit s → r.2 ≠ expected →
      exec (.skaeadDec member) s = .next { s with err := .auth, done := true, seq := .idle }) ∧
    (RegionsFit s → r.2 = expected →
      ∃ t, exec (.skaeadDec member) s = .next t ∧ WritesOutput r.1 s t ∧ t.tag = s.tag ∧
        t.dout = s.dout ∧ CompletesWith .ok s t)

/-- Encrypting a region in place and then decrypting it in place with the same member gives back the
message, leaves every other byte of BUF as it was, and authenticates (45_skinny_aead.md R917, R930,
R931; 20_memory.md R222). -/
def Obligations.SkinnyAeadInPlaceRoundTrip : Prop :=
  ∀ (s : State) (member : Member), RegionsFit s → InPlace s →
    ∃ t u, exec (.skaeadEnc member) s = .next t ∧ exec (.skaeadDec member) t = .next u ∧
      u.err = .ok ∧
      nibRead u s.msgPtr.toNat s.msgLen.toNat = nibRead s s.msgPtr.toNat s.msgLen.toNat ∧
      ∀ a, ¬ inNibRegion s.msgPtr.toNat s.msgLen.toNat a → bufByte u a = bufByte s a

/-- SKINNY-AEAD encryption and decryption as the two passes over the blocks that the rules write: the
message pass with roles 0 and 1, the tag under the role of the tag rule, the associated-data pass with
roles 2 and 3, and the counter started at 1 in each pass and advanced by every block, the partial one too
(45_skinny_aead.md R900-R905, R910, R913, R915, R916). -/
def Obligations.SkinnyAeadRunsItsPasses : Prop :=
  ∀ (bits : MemberBits) (rule : TagRule) (member : Member) (k nonce : Block)
    (ad msg : List Nibble),
    let mb := match member with
      | .m1 => bits.m1 | .m2 => bits.m2 | .m3 => bits.m3 | .m4 => bits.m4
    let nn := if member = .m1 ∨ member = .m3 then nonce else nonce.extractLsb' 32 96 ++ 0#32
    let e := fun lfsr role x => skinnyEncrypt .n128 3 56 (skaeadTka mb nn k lfsr role) x
    let d := fun lfsr role x => skinnyDecrypt .n128 3 56 (skaeadTka mb nn k lfsr role) x
    let auth := (skaeadAdLoop e (blocksIfAny ad)).2
    let result := fun p : SkaeadLoop =>
      let role := match rule with
        | .doc => if msg.length = 0 then 0x04#8 else 0x05#8
        | .published => if p.lastPartial then 0x05#8 else 0x04#8
      let tag := e p.lfsr role p.sigma ^^^ auth
      (p.out, if member = .m1 ∨ member = .m2 then SkaeadTag.full tag
        else SkaeadTag.short (tag.extractLsb' 64 64))
    skaeadEncrypt bits rule member k nonce ad msg =
      result (skaeadLoop e d .encrypt (blocksIfAny msg)) ∧
    skaeadDecrypt bits rule member k nonce ad msg =
      result (skaeadLoop e d .decrypt (blocksIfAny msg))
end

