-- ==== Sys2Proof/Laws/Bits.lean ====
section
/-! SUPPORT. The bit and cell builders of Machine/Primitives.lean, and what each layer of the ciphers
does to one bit or one cell: later proofs cite these and never unfold a builder. -/

namespace Sys2Proof.Machine

open Sys2Proof

theorem bitsNat_lt (f : Nat → Bool) (n : Nat) : bitsNat f n < 2 ^ n := by
  induction n with
  | zero => simp [bitsNat]
  | succ n ih =>
    have h : (f n).toNat ≤ 1 := Bool.toNat_le (f n)
    have h2 : (f n).toNat * 2 ^ n ≤ 1 * 2 ^ n := Nat.mul_le_mul_right _ h
    simp only [bitsNat, Nat.shiftLeft_eq, Nat.pow_succ]
    omega

theorem testBit_bitsNat (f : Nat → Bool) (n i : Nat) :
    (bitsNat f n).testBit i = (decide (i < n) && f i) := by
  induction n with
  | zero => simp [bitsNat]
  | succ n ih =>
    have h : bitsNat f (n + 1) = 2 ^ n * (f n).toNat + bitsNat f n := by
      simp only [bitsNat, Nat.shiftLeft_eq]
      rw [Nat.mul_comm, Nat.add_comm]
    rw [h, Nat.testBit_two_pow_mul_add _ (bitsNat_lt f n), ih]
    by_cases hi : i < n
    · simp [hi, Nat.lt_succ_of_lt hi]
    · by_cases he : i = n
      · subst he
        cases f i <;> simp
      · have hgt : ¬ i < n + 1 := by omega
        have hk : i - n ≠ 0 := by omega
        obtain ⟨m, hm⟩ := Nat.exists_eq_succ_of_ne_zero hk
        cases f n <;> simp [hi, hgt, hm, Nat.testBit_succ]

/-- Bit i of a value built from its bits. -/
@[simp] theorem getLsbD_ofBits (n : Nat) (f : Nat → Bool) (i : Nat) :
    (ofBits n f).getLsbD i = (decide (i < n) && f i) := by
  simp only [ofBits, BitVec.getLsbD_ofNat, testBit_bitsNat]
  cases decide (i < n) <;> simp

theorem cellsNat_lt {c : Nat} (f : Nat → BitVec c) (k : Nat) : cellsNat f k < 2 ^ (c * k) := by
  induction k with
  | zero => simp [cellsNat]
  | succ k ih =>
    have h : (f k).toNat + 1 ≤ 2 ^ c := (f k).isLt
    have h2 : ((f k).toNat + 1) * 2 ^ (c * k) ≤ 2 ^ c * 2 ^ (c * k) := Nat.mul_le_mul_right _ h
    simp only [cellsNat, Nat.shiftLeft_eq, Nat.mul_succ, Nat.pow_add]
    rw [Nat.mul_comm (2 ^ (c * k)) (2 ^ c)]
    rw [Nat.add_mul, Nat.one_mul] at h2
    omega

theorem testBit_cellsNat {c : Nat} (hc : 0 < c) (f : Nat → BitVec c) (k i : Nat) :
    (cellsNat f k).testBit i = (decide (i < c * k) && (f (i / c)).getLsbD (i % c)) := by
  induction k with
  | zero => simp [cellsNat]
  | succ k ih =>
    have h : cellsNat f (k + 1) = 2 ^ (c * k) * (f k).toNat + cellsNat f k := by
      simp only [cellsNat, Nat.shiftLeft_eq]
      rw [Nat.mul_comm, Nat.add_comm]
    rw [h, Nat.testBit_two_pow_mul_add _ (cellsNat_lt f k), ih]
    by_cases hi : i < c * k
    · have h2 : i < c * (k + 1) := by rw [Nat.mul_succ]; omega
      simp [hi, h2]
    · simp only [hi, if_false]
      rw [show (f k).toNat.testBit (i - c * k) = (f k).getLsbD (i - c * k) from rfl]
      by_cases h2 : i < c * (k + 1)
      · have h3 : i < c * k + c := by rwa [Nat.mul_succ] at h2
        have hd : i / c = k := by
          rw [Nat.div_eq_iff hc]
          rw [Nat.mul_comm k c]
          omega
        have hm : i % c = i - c * k := by
          have := Nat.div_add_mod i c
          rw [hd] at this
          omega
        simp [h2, hd, hm]
      · have h3 : ¬ i < c * k + c := by rwa [Nat.mul_succ] at h2
        have h4 : c ≤ i - c * k := by omega
        simp [h2, BitVec.getLsbD_of_ge _ _ h4]

/-- Bit i of a value built from its cells. -/
theorem getLsbD_ofCells (n : Nat) {c : Nat} (hc : 0 < c) (hd : c * (n / c) = n)
    (f : Nat → BitVec c) (i : Nat) :
    (ofCells n f).getLsbD i = (decide (i < n) && (f (i / c)).getLsbD (i % c)) := by
  simp only [ofCells, BitVec.getLsbD_ofNat, testBit_cellsNat hc, hd]
  cases decide (i < n) <;> simp

/-- Cell j of a value built from its cells. -/
theorem extract_ofCells (n : Nat) {c : Nat} (hc : 0 < c) (hd : c * (n / c) = n)
    (f : Nat → BitVec c) (j : Nat) (hj : j < n / c) :
    (ofCells n f).extractLsb' (c * j) c = f j := by
  have hb : c * j + c ≤ n := by
    have : c * (j + 1) ≤ c * (n / c) := Nat.mul_le_mul_left c hj
    rw [Nat.mul_succ] at this
    omega
  apply BitVec.eq_of_getLsbD_eq
  intro i hi
  have h1 : (c * j + i) / c = j := by
    rw [Nat.add_comm, Nat.add_mul_div_left _ _ hc, Nat.div_eq_of_lt hi, Nat.zero_add]
  have h2 : (c * j + i) % c = i := by
    rw [Nat.add_comm, Nat.add_mul_mod_self_left, Nat.mod_eq_of_lt hi]
  have h3 : c * j + i < n := by omega
  simp only [BitVec.getLsbD_extractLsb', getLsbD_ofCells n hc hd, hi, h1, h2, h3, decide_true,
    Bool.true_and]

/-! ### The layers of GIFT, one bit or one nibble at a time -/

theorem getLsbD_giftPermBits {n : Nat} (b : BitVec n) (j : Nat) :
    (giftPermBits b).getLsbD j = (decide (j < n) && b.getLsbD (giftPermInv n j)) := by
  simp [giftPermBits]

theorem getLsbD_giftInvPermBits {n : Nat} (b : BitVec n) (i : Nat) :
    (giftInvPermBits b).getLsbD i = (decide (i < n) && b.getLsbD (giftPerm n i)) := by
  simp [giftInvPermBits]

theorem giftNibble_giftSubCells {n : Nat} (hn : 4 * (n / 4) = n) (b : BitVec n) (j : Nat)
    (hj : j < n / 4) : giftNibble (giftSubCells b) j = giftSbox (giftNibble b j) :=
  extract_ofCells n (by decide) hn _ j hj

theorem giftNibble_giftInvSubCells {n : Nat} (hn : 4 * (n / 4) = n) (b : BitVec n) (j : Nat)
    (hj : j < n / 4) : giftNibble (giftInvSubCells b) j = giftSboxInv (giftNibble b j) :=
  extract_ofCells n (by decide) hn _ j hj

/-- Two GIFT states with equal nibbles are equal. -/
theorem giftNibble_ext {n : Nat} (hn : 4 * (n / 4) = n) {a b : BitVec n}
    (h : ∀ j, j < n / 4 → giftNibble a j = giftNibble b j) : a = b := by
  apply BitVec.eq_of_getLsbD_eq
  intro i hi
  have hj : i / 4 < n / 4 := by omega
  have e := congrArg (fun x => x.getLsbD (i % 4)) (h (i / 4) hj)
  have hm : i % 4 < 4 := Nat.mod_lt _ (by decide)
  simpa [giftNibble, hm, Nat.div_add_mod] using e

/-! ### The layers of SKINNY, one cell at a time -/

theorem cellBits_pos (n : BlockSize) : 0 < cellBits n := by cases n <;> decide

theorem cellBits_mul (n : BlockSize) : cellBits n * (blockBits n / cellBits n) = blockBits n := by
  cases n <;> decide

theorem blockBits_div (n : BlockSize) : blockBits n / cellBits n = 16 := by cases n <;> decide

/-- Cell i of a packed SKINNY value. -/
theorem skCell_skPack (n : BlockSize) (f : Nat → BitVec (cellBits n)) (i : Nat) (hi : i < 16) :
    skCell n (skPack n f) i = f i := by
  have hj : 15 - i < blockBits n / cellBits n := by rw [blockBits_div]; omega
  have h := extract_ofCells (blockBits n) (cellBits_pos n) (cellBits_mul n) (fun j => f (15 - j))
    (15 - i) hj
  have e : 15 - (15 - i) = i := by omega
  simpa [skCell, skPack, e] using h

/-- Two SKINNY values with equal cells are equal. -/
theorem skCell_ext (n : BlockSize) {a b : BitVec (blockBits n)}
    (h : ∀ i, i < 16 → skCell n a i = skCell n b i) : a = b := by
  apply BitVec.eq_of_getLsbD_eq
  intro i hi
  have hc := cellBits_pos n
  have h16 : blockBits n = cellBits n * 16 := by cases n <;> rfl
  have hq : i / cellBits n < 16 := by
    rw [Nat.div_lt_iff_lt_mul hc, Nat.mul_comm]
    omega
  have hlt : 15 - i / cellBits n < 16 := Nat.lt_succ_of_le (Nat.sub_le _ _)
  have e := congrArg (fun x => x.getLsbD (i % cellBits n)) (h (15 - i / cellBits n) hlt)
  have hm : i % cellBits n < cellBits n := Nat.mod_lt _ hc
  have hs : 15 - (15 - i / cellBits n) = i / cellBits n :=
    Nat.sub_sub_self (Nat.le_of_lt_succ hq)
  simpa [skCell, hm, hs, Nat.div_add_mod] using e

/-! ### The packed state of the bit-sliced engine -/

theorem getLsbD_permWord (w : Nat) (x : Word) (t : Nat) :
    (permWord w x).getLsbD t = (decide (t < 32) && x.getLsbD (wordPermInv w t)) := by
  simp [permWord]

theorem getLsbD_invPermWord (w : Nat) (x : Word) (j : Nat) :
    (invPermWord w x).getLsbD j = (decide (j < 32) && x.getLsbD (wordPerm w j)) := by
  simp [invPermWord]

end Sys2Proof.Machine
end

