-- ==== Sys2Proof/Laws/Blocks.lean ====
section
/-! SUPPORT. Blocks as nibble strings: packing and unpacking, truncation, splitting (40_primitives.md
R430-R434, 20_memory.md R204). -/

namespace Sys2Proof.Machine

open Sys2Proof

@[simp] theorem length_blockNibbles (b : Block) : (blockNibbles b).length = 32 := by
  simp [blockNibbles]

theorem length_truncNib (v : Block) (len : Nat) : (truncNib v len).length = min len 32 := by
  simp [truncNib]

/-- A nibble string XOR the first nibbles of a block is as long as the string, up to 32. -/
theorem length_xorTrunc (m : List Nibble) (y : Block) :
    (xorTrunc m y).length = min m.length 32 := by
  simp [xorTrunc, length_truncNib]

/-- XOR with the same truncated block twice gives the string back (44_gift_cofb.md R814). -/
theorem xorTrunc_xorTrunc (m : List Nibble) (y : Block) (h : m.length ≤ 32) :
    xorTrunc (xorTrunc m y) y = m := by
  have hl : (xorTrunc m y).length = m.length := by rw [length_xorTrunc]; omega
  apply List.ext_getElem
  · rw [length_xorTrunc, hl]; omega
  · intro i h1 h2
    simp only [xorTrunc, List.getElem_zipWith, List.length_zipWith, length_truncNib]
    have e : min m.length (min m.length 32) = m.length := by omega
    simp only [e]
    rw [BitVec.xor_assoc, BitVec.xor_self, BitVec.xor_zero]

theorem foldl_pack_add (m : List Nibble) (acc : Nat) :
    m.foldl (fun acc x => acc * 16 + x.toNat) acc =
      acc * 16 ^ m.length + m.foldl (fun acc x => acc * 16 + x.toNat) 0 := by
  induction m generalizing acc with
  | nil => simp
  | cons x m ih =>
    rw [List.foldl_cons, ih, List.foldl_cons, ih (0 * 16 + x.toNat), List.length_cons, Nat.pow_succ]
    ring

theorem foldl_pack_lt (m : List Nibble) :
    m.foldl (fun acc x => acc * 16 + x.toNat) 0 < 16 ^ m.length := by
  induction m with
  | nil => simp
  | cons x m ih =>
    rw [List.foldl_cons, foldl_pack_add, List.length_cons, Nat.pow_succ]
    have hx : x.toNat < 16 := x.isLt
    have h2 : (0 * 16 + x.toNat + 1) * 16 ^ m.length ≤ 16 * 16 ^ m.length :=
      Nat.mul_le_mul_right _ (by omega)
    rw [Nat.add_mul, Nat.one_mul] at h2
    omega

/-- Nibble t of a packed string of 32 nibbles. -/
theorem foldl_pack_div (m : List Nibble) (t : Nat) (ht : t < m.length) :
    m.foldl (fun acc x => acc * 16 + x.toNat) 0 / 16 ^ (m.length - 1 - t) % 16 = m[t].toNat := by
  induction m generalizing t with
  | nil => exact absurd ht (Nat.not_lt_zero _)
  | cons x m ih =>
    rw [List.foldl_cons, foldl_pack_add]
    have hlt := foldl_pack_lt m
    cases t with
    | zero =>
      have e : (x :: m).length - 1 - 0 = m.length := by simp
      rw [e, Nat.mul_comm, Nat.mul_add_div (Nat.pow_pos (by decide)), Nat.div_eq_of_lt hlt]
      have hx : x.toNat < 16 := x.isLt
      simp [Nat.mod_eq_of_lt hx]
    | succ t =>
      have ht' : t < m.length := by simpa using ht
      have e : (x :: m).length - 1 - (t + 1) = m.length - 1 - t := by
        rw [List.length_cons]
        omega
      rw [e]
      have hsplit : 16 ^ m.length = 16 ^ (m.length - 1 - t) * (16 * 16 ^ t) := by
        rw [← Nat.pow_succ', ← Nat.pow_add]
        congr 1
        omega
      rw [hsplit, Nat.mul_comm, Nat.mul_assoc, Nat.mul_add_div (Nat.pow_pos (by decide)),
        Nat.mul_assoc, Nat.mul_add_mod]
      simpa using ih t ht'

/-- Unpacking a packed string of 32 nibbles gives it back. -/
theorem blockNibbles_packNibbles (m : List Nibble) (h : m.length = 32) :
    blockNibbles (packNibbles m) = m := by
  apply List.ext_getElem
  · simp [h]
  · intro t h1 h2
    have hd := foldl_pack_div m t h2
    have hlt := foldl_pack_lt m
    apply BitVec.eq_of_toNat_eq
    have hp : (packNibbles m).toNat = m.foldl (fun acc x => acc * 16 + x.toNat) 0 := by
      rw [packNibbles, BitVec.toNat_ofNat]
      apply Nat.mod_eq_of_lt
      rw [h] at hlt
      calc _ < _ := hlt
        _ = _ := by norm_num
    simp only [blockNibbles, List.getElem_map, List.getElem_range, BitVec.extractLsb'_toNat, hp]
    rw [Nat.shiftRight_eq_div_pow, Nat.pow_mul]
    rw [h] at hd
    simpa using hd

/-- Packing the nibbles of a block gives it back. -/
theorem packNibbles_blockNibbles (b : Block) : packNibbles (blockNibbles b) = b := by
  have h := blockNibbles_packNibbles (blockNibbles b) (length_blockNibbles b)
  apply BitVec.eq_of_getLsbD_eq
  intro i hi
  have e := congrArg (fun l : List Nibble => (l.getD (31 - i / 4) 0#4).getLsbD (i % 4)) h
  have hm : i % 4 < 4 := Nat.mod_lt _ (by decide)
  have hq : 31 - i / 4 < 32 := by omega
  have hs : 31 - (31 - i / 4) = i / 4 := by omega
  simpa [blockNibbles, hm, hq, hs, Nat.div_add_mod] using e

end Sys2Proof.Machine
end

