-- ==== Sys2Proof/Laws/State.lean ====
section
/-! SUPPORT. One lemma per field of `State` per named update, true by rfl: no later proof unfolds a
record update. -/

namespace Sys2Proof.Machine

open Sys2Proof

section
variable (v : Word) (s : State)
@[simp] theorem writeStatus_params : (writeStatus v s).params = s.params := rfl
@[simp] theorem writeStatus_cmd : (writeStatus v s).cmd = s.cmd := rfl
@[simp] theorem writeStatus_done : (writeStatus v s).done = (if v.getLsbD 1 then false else s.done) := rfl
@[simp] theorem writeStatus_werr : (writeStatus v s).werr = (if v.getLsbD 2 then false else s.werr) := rfl
@[simp] theorem writeStatus_err : (writeStatus v s).err = (if v.getLsbD 1 then ErrCode.ok else s.err) := rfl
@[simp] theorem writeStatus_doneIe : (writeStatus v s).doneIe = s.doneIe := rfl
@[simp] theorem writeStatus_werrIe : (writeStatus v s).werrIe = s.werrIe := rfl
@[simp] theorem writeStatus_adPtr : (writeStatus v s).adPtr = s.adPtr := rfl
@[simp] theorem writeStatus_adLen : (writeStatus v s).adLen = s.adLen := rfl
@[simp] theorem writeStatus_msgPtr : (writeStatus v s).msgPtr = s.msgPtr := rfl
@[simp] theorem writeStatus_msgLen : (writeStatus v s).msgLen = s.msgLen := rfl
@[simp] theorem writeStatus_outPtr : (writeStatus v s).outPtr = s.outPtr := rfl
@[simp] theorem writeStatus_key : (writeStatus v s).key = s.key := rfl
@[simp] theorem writeStatus_nonce : (writeStatus v s).nonce = s.nonce := rfl
@[simp] theorem writeStatus_din : (writeStatus v s).din = s.din := rfl
@[simp] theorem writeStatus_dout : (writeStatus v s).dout = s.dout := rfl
@[simp] theorem writeStatus_tag : (writeStatus v s).tag = s.tag := rfl
@[simp] theorem writeStatus_seq : (writeStatus v s).seq = s.seq := rfl
@[simp] theorem writeStatus_buf : (writeStatus v s).buf = s.buf := rfl
@[simp] theorem writeStatus_resets : (writeStatus v s).resets = s.resets := rfl
@[simp] theorem writeStatus_program : (writeStatus v s).program = s.program := rfl
@[simp] theorem writeStatus_schedule : (writeStatus v s).schedule = s.schedule := rfl
@[simp] theorem writeStatus_reads : (writeStatus v s).reads = s.reads := rfl
end

section
variable (v : Word) (s : State)
@[simp] theorem writeIrqEn_params : (writeIrqEn v s).params = s.params := rfl
@[simp] theorem writeIrqEn_cmd : (writeIrqEn v s).cmd = s.cmd := rfl
@[simp] theorem writeIrqEn_done : (writeIrqEn v s).done = s.done := rfl
@[simp] theorem writeIrqEn_werr : (writeIrqEn v s).werr = s.werr := rfl
@[simp] theorem writeIrqEn_err : (writeIrqEn v s).err = s.err := rfl
@[simp] theorem writeIrqEn_doneIe : (writeIrqEn v s).doneIe = v.getLsbD 0 := rfl
@[simp] theorem writeIrqEn_werrIe : (writeIrqEn v s).werrIe = v.getLsbD 1 := rfl
@[simp] theorem writeIrqEn_adPtr : (writeIrqEn v s).adPtr = s.adPtr := rfl
@[simp] theorem writeIrqEn_adLen : (writeIrqEn v s).adLen = s.adLen := rfl
@[simp] theorem writeIrqEn_msgPtr : (writeIrqEn v s).msgPtr = s.msgPtr := rfl
@[simp] theorem writeIrqEn_msgLen : (writeIrqEn v s).msgLen = s.msgLen := rfl
@[simp] theorem writeIrqEn_outPtr : (writeIrqEn v s).outPtr = s.outPtr := rfl
@[simp] theorem writeIrqEn_key : (writeIrqEn v s).key = s.key := rfl
@[simp] theorem writeIrqEn_nonce : (writeIrqEn v s).nonce = s.nonce := rfl
@[simp] theorem writeIrqEn_din : (writeIrqEn v s).din = s.din := rfl
@[simp] theorem writeIrqEn_dout : (writeIrqEn v s).dout = s.dout := rfl
@[simp] theorem writeIrqEn_tag : (writeIrqEn v s).tag = s.tag := rfl
@[simp] theorem writeIrqEn_seq : (writeIrqEn v s).seq = s.seq := rfl
@[simp] theorem writeIrqEn_buf : (writeIrqEn v s).buf = s.buf := rfl
@[simp] theorem writeIrqEn_resets : (writeIrqEn v s).resets = s.resets := rfl
@[simp] theorem writeIrqEn_program : (writeIrqEn v s).program = s.program := rfl
@[simp] theorem writeIrqEn_schedule : (writeIrqEn v s).schedule = s.schedule := rfl
@[simp] theorem writeIrqEn_reads : (writeIrqEn v s).reads = s.reads := rfl
end

section
variable (s : State)
@[simp] theorem dropWrite_params : (dropWrite s).params = s.params := rfl
@[simp] theorem dropWrite_cmd : (dropWrite s).cmd = s.cmd := rfl
@[simp] theorem dropWrite_done : (dropWrite s).done = s.done := rfl
@[simp] theorem dropWrite_werr : (dropWrite s).werr = true := rfl
@[simp] theorem dropWrite_err : (dropWrite s).err = s.err := rfl
@[simp] theorem dropWrite_doneIe : (dropWrite s).doneIe = s.doneIe := rfl
@[simp] theorem dropWrite_werrIe : (dropWrite s).werrIe = s.werrIe := rfl
@[simp] theorem dropWrite_adPtr : (dropWrite s).adPtr = s.adPtr := rfl
@[simp] theorem dropWrite_adLen : (dropWrite s).adLen = s.adLen := rfl
@[simp] theorem dropWrite_msgPtr : (dropWrite s).msgPtr = s.msgPtr := rfl
@[simp] theorem dropWrite_msgLen : (dropWrite s).msgLen = s.msgLen := rfl
@[simp] theorem dropWrite_outPtr : (dropWrite s).outPtr = s.outPtr := rfl
@[simp] theorem dropWrite_key : (dropWrite s).key = s.key := rfl
@[simp] theorem dropWrite_nonce : (dropWrite s).nonce = s.nonce := rfl
@[simp] theorem dropWrite_din : (dropWrite s).din = s.din := rfl
@[simp] theorem dropWrite_dout : (dropWrite s).dout = s.dout := rfl
@[simp] theorem dropWrite_tag : (dropWrite s).tag = s.tag := rfl
@[simp] theorem dropWrite_seq : (dropWrite s).seq = s.seq := rfl
@[simp] theorem dropWrite_buf : (dropWrite s).buf = s.buf := rfl
@[simp] theorem dropWrite_resets : (dropWrite s).resets = s.resets := rfl
@[simp] theorem dropWrite_program : (dropWrite s).program = s.program := rfl
@[simp] theorem dropWrite_schedule : (dropWrite s).schedule = s.schedule := rfl
@[simp] theorem dropWrite_reads : (dropWrite s).reads = s.reads := rfl
end

section
variable (w : Word) (s : State)
@[simp] theorem accept_params : (accept w s).params = s.params := rfl
@[simp] theorem accept_cmd : (accept w s).cmd = w := rfl
@[simp] theorem accept_done : (accept w s).done = false := rfl
@[simp] theorem accept_werr : (accept w s).werr = s.werr := rfl
@[simp] theorem accept_err : (accept w s).err = ErrCode.ok := rfl
@[simp] theorem accept_doneIe : (accept w s).doneIe = s.doneIe := rfl
@[simp] theorem accept_werrIe : (accept w s).werrIe = s.werrIe := rfl
@[simp] theorem accept_adPtr : (accept w s).adPtr = s.adPtr := rfl
@[simp] theorem accept_adLen : (accept w s).adLen = s.adLen := rfl
@[simp] theorem accept_msgPtr : (accept w s).msgPtr = s.msgPtr := rfl
@[simp] theorem accept_msgLen : (accept w s).msgLen = s.msgLen := rfl
@[simp] theorem accept_outPtr : (accept w s).outPtr = s.outPtr := rfl
@[simp] theorem accept_key : (accept w s).key = s.key := rfl
@[simp] theorem accept_nonce : (accept w s).nonce = s.nonce := rfl
@[simp] theorem accept_din : (accept w s).din = s.din := rfl
@[simp] theorem accept_dout : (accept w s).dout = s.dout := rfl
@[simp] theorem accept_tag : (accept w s).tag = s.tag := rfl
@[simp] theorem accept_seq : (accept w s).seq = Sequencer.busy w := rfl
@[simp] theorem accept_buf : (accept w s).buf = s.buf := rfl
@[simp] theorem accept_resets : (accept w s).resets = s.resets := rfl
@[simp] theorem accept_program : (accept w s).program = s.program := rfl
@[simp] theorem accept_schedule : (accept w s).schedule = s.schedule := rfl
@[simp] theorem accept_reads : (accept w s).reads = s.reads := rfl
end

section
variable (c : ErrCode) (s : State)
@[simp] theorem complete_params : (complete c s).params = s.params := rfl
@[simp] theorem complete_cmd : (complete c s).cmd = s.cmd := rfl
@[simp] theorem complete_done : (complete c s).done = true := rfl
@[simp] theorem complete_werr : (complete c s).werr = s.werr := rfl
@[simp] theorem complete_err : (complete c s).err = c := rfl
@[simp] theorem complete_doneIe : (complete c s).doneIe = s.doneIe := rfl
@[simp] theorem complete_werrIe : (complete c s).werrIe = s.werrIe := rfl
@[simp] theorem complete_adPtr : (complete c s).adPtr = s.adPtr := rfl
@[simp] theorem complete_adLen : (complete c s).adLen = s.adLen := rfl
@[simp] theorem complete_msgPtr : (complete c s).msgPtr = s.msgPtr := rfl
@[simp] theorem complete_msgLen : (complete c s).msgLen = s.msgLen := rfl
@[simp] theorem complete_outPtr : (complete c s).outPtr = s.outPtr := rfl
@[simp] theorem complete_key : (complete c s).key = s.key := rfl
@[simp] theorem complete_nonce : (complete c s).nonce = s.nonce := rfl
@[simp] theorem complete_din : (complete c s).din = s.din := rfl
@[simp] theorem complete_dout : (complete c s).dout = s.dout := rfl
@[simp] theorem complete_tag : (complete c s).tag = s.tag := rfl
@[simp] theorem complete_seq : (complete c s).seq = Sequencer.idle := rfl
@[simp] theorem complete_buf : (complete c s).buf = s.buf := rfl
@[simp] theorem complete_resets : (complete c s).resets = s.resets := rfl
@[simp] theorem complete_program : (complete c s).program = s.program := rfl
@[simp] theorem complete_schedule : (complete c s).schedule = s.schedule := rfl
@[simp] theorem complete_reads : (complete c s).reads = s.reads := rfl
end

section
variable (a : Nat) (bytes : List Byte) (s : State)
@[simp] theorem bufWrite_params : (bufWrite a bytes s).params = s.params := rfl
@[simp] theorem bufWrite_cmd : (bufWrite a bytes s).cmd = s.cmd := rfl
@[simp] theorem bufWrite_done : (bufWrite a bytes s).done = s.done := rfl
@[simp] theorem bufWrite_werr : (bufWrite a bytes s).werr = s.werr := rfl
@[simp] theorem bufWrite_err : (bufWrite a bytes s).err = s.err := rfl
@[simp] theorem bufWrite_doneIe : (bufWrite a bytes s).doneIe = s.doneIe := rfl
@[simp] theorem bufWrite_werrIe : (bufWrite a bytes s).werrIe = s.werrIe := rfl
@[simp] theorem bufWrite_adPtr : (bufWrite a bytes s).adPtr = s.adPtr := rfl
@[simp] theorem bufWrite_adLen : (bufWrite a bytes s).adLen = s.adLen := rfl
@[simp] theorem bufWrite_msgPtr : (bufWrite a bytes s).msgPtr = s.msgPtr := rfl
@[simp] theorem bufWrite_msgLen : (bufWrite a bytes s).msgLen = s.msgLen := rfl
@[simp] theorem bufWrite_outPtr : (bufWrite a bytes s).outPtr = s.outPtr := rfl
@[simp] theorem bufWrite_key : (bufWrite a bytes s).key = s.key := rfl
@[simp] theorem bufWrite_nonce : (bufWrite a bytes s).nonce = s.nonce := rfl
@[simp] theorem bufWrite_din : (bufWrite a bytes s).din = s.din := rfl
@[simp] theorem bufWrite_dout : (bufWrite a bytes s).dout = s.dout := rfl
@[simp] theorem bufWrite_tag : (bufWrite a bytes s).tag = s.tag := rfl
@[simp] theorem bufWrite_seq : (bufWrite a bytes s).seq = s.seq := rfl
@[simp] theorem bufWrite_buf : (bufWrite a bytes s).buf = cellsWrite s.buf a bytes := rfl
@[simp] theorem bufWrite_resets : (bufWrite a bytes s).resets = s.resets := rfl
@[simp] theorem bufWrite_program : (bufWrite a bytes s).program = s.program := rfl
@[simp] theorem bufWrite_schedule : (bufWrite a bytes s).schedule = s.schedule := rfl
@[simp] theorem bufWrite_reads : (bufWrite a bytes s).reads = s.reads := rfl
end

section
variable (a : Nat) (v : List Nibble) (s : State)
@[simp] theorem nibWrite_params : (nibWrite a v s).params = s.params := rfl
@[simp] theorem nibWrite_cmd : (nibWrite a v s).cmd = s.cmd := rfl
@[simp] theorem nibWrite_done : (nibWrite a v s).done = s.done := rfl
@[simp] theorem nibWrite_werr : (nibWrite a v s).werr = s.werr := rfl
@[simp] theorem nibWrite_err : (nibWrite a v s).err = s.err := rfl
@[simp] theorem nibWrite_doneIe : (nibWrite a v s).doneIe = s.doneIe := rfl
@[simp] theorem nibWrite_werrIe : (nibWrite a v s).werrIe = s.werrIe := rfl
@[simp] theorem nibWrite_adPtr : (nibWrite a v s).adPtr = s.adPtr := rfl
@[simp] theorem nibWrite_adLen : (nibWrite a v s).adLen = s.adLen := rfl
@[simp] theorem nibWrite_msgPtr : (nibWrite a v s).msgPtr = s.msgPtr := rfl
@[simp] theorem nibWrite_msgLen : (nibWrite a v s).msgLen = s.msgLen := rfl
@[simp] theorem nibWrite_outPtr : (nibWrite a v s).outPtr = s.outPtr := rfl
@[simp] theorem nibWrite_key : (nibWrite a v s).key = s.key := rfl
@[simp] theorem nibWrite_nonce : (nibWrite a v s).nonce = s.nonce := rfl
@[simp] theorem nibWrite_din : (nibWrite a v s).din = s.din := rfl
@[simp] theorem nibWrite_dout : (nibWrite a v s).dout = s.dout := rfl
@[simp] theorem nibWrite_tag : (nibWrite a v s).tag = s.tag := rfl
@[simp] theorem nibWrite_seq : (nibWrite a v s).seq = s.seq := rfl
@[simp] theorem nibWrite_buf : (nibWrite a v s).buf = cellsWrite s.buf a (nibbleBytes v) := rfl
@[simp] theorem nibWrite_resets : (nibWrite a v s).resets = s.resets := rfl
@[simp] theorem nibWrite_program : (nibWrite a v s).program = s.program := rfl
@[simp] theorem nibWrite_schedule : (nibWrite a v s).schedule = s.schedule := rfl
@[simp] theorem nibWrite_reads : (nibWrite a v s).reads = s.reads := rfl
end

section
variable (v : List Nibble) (s : State)
@[simp] theorem writeOutput_params : (writeOutput v s).params = s.params := rfl
@[simp] theorem writeOutput_cmd : (writeOutput v s).cmd = s.cmd := rfl
@[simp] theorem writeOutput_done : (writeOutput v s).done = s.done := rfl
@[simp] theorem writeOutput_werr : (writeOutput v s).werr = s.werr := rfl
@[simp] theorem writeOutput_err : (writeOutput v s).err = s.err := rfl
@[simp] theorem writeOutput_doneIe : (writeOutput v s).doneIe = s.doneIe := rfl
@[simp] theorem writeOutput_werrIe : (writeOutput v s).werrIe = s.werrIe := rfl
@[simp] theorem writeOutput_adPtr : (writeOutput v s).adPtr = s.adPtr := rfl
@[simp] theorem writeOutput_adLen : (writeOutput v s).adLen = s.adLen := rfl
@[simp] theorem writeOutput_msgPtr : (writeOutput v s).msgPtr = s.msgPtr := rfl
@[simp] theorem writeOutput_msgLen : (writeOutput v s).msgLen = s.msgLen := rfl
@[simp] theorem writeOutput_outPtr : (writeOutput v s).outPtr = s.outPtr := rfl
@[simp] theorem writeOutput_key : (writeOutput v s).key = s.key := rfl
@[simp] theorem writeOutput_nonce : (writeOutput v s).nonce = s.nonce := rfl
@[simp] theorem writeOutput_din : (writeOutput v s).din = s.din := rfl
@[simp] theorem writeOutput_dout : (writeOutput v s).dout = s.dout := rfl
@[simp] theorem writeOutput_tag : (writeOutput v s).tag = s.tag := rfl
@[simp] theorem writeOutput_seq : (writeOutput v s).seq = s.seq := rfl
@[simp] theorem writeOutput_buf : (writeOutput v s).buf = cellsWrite s.buf s.outPtr.toNat (nibbleBytes v) := rfl
@[simp] theorem writeOutput_resets : (writeOutput v s).resets = s.resets := rfl
@[simp] theorem writeOutput_program : (writeOutput v s).program = s.program := rfl
@[simp] theorem writeOutput_schedule : (writeOutput v s).schedule = s.schedule := rfl
@[simp] theorem writeOutput_reads : (writeOutput v s).reads = s.reads := rfl
end

section
variable (y : Block) (s : State)
@[simp] theorem setDout128_params : (setDout128 y s).params = s.params := rfl
@[simp] theorem setDout128_cmd : (setDout128 y s).cmd = s.cmd := rfl
@[simp] theorem setDout128_done : (setDout128 y s).done = s.done := rfl
@[simp] theorem setDout128_werr : (setDout128 y s).werr = s.werr := rfl
@[simp] theorem setDout128_err : (setDout128 y s).err = s.err := rfl
@[simp] theorem setDout128_doneIe : (setDout128 y s).doneIe = s.doneIe := rfl
@[simp] theorem setDout128_werrIe : (setDout128 y s).werrIe = s.werrIe := rfl
@[simp] theorem setDout128_adPtr : (setDout128 y s).adPtr = s.adPtr := rfl
@[simp] theorem setDout128_adLen : (setDout128 y s).adLen = s.adLen := rfl
@[simp] theorem setDout128_msgPtr : (setDout128 y s).msgPtr = s.msgPtr := rfl
@[simp] theorem setDout128_msgLen : (setDout128 y s).msgLen = s.msgLen := rfl
@[simp] theorem setDout128_outPtr : (setDout128 y s).outPtr = s.outPtr := rfl
@[simp] theorem setDout128_key : (setDout128 y s).key = s.key := rfl
@[simp] theorem setDout128_nonce : (setDout128 y s).nonce = s.nonce := rfl
@[simp] theorem setDout128_din : (setDout128 y s).din = s.din := rfl
@[simp] theorem setDout128_dout : (setDout128 y s).dout = #v[y.extractLsb' 96 32, y.extractLsb' 64 32, y.extractLsb' 32 32, y.extractLsb' 0 32] := rfl
@[simp] theorem setDout128_tag : (setDout128 y s).tag = s.tag := rfl
@[simp] theorem setDout128_seq : (setDout128 y s).seq = s.seq := rfl
@[simp] theorem setDout128_buf : (setDout128 y s).buf = s.buf := rfl
@[simp] theorem setDout128_resets : (setDout128 y s).resets = s.resets := rfl
@[simp] theorem setDout128_program : (setDout128 y s).program = s.program := rfl
@[simp] theorem setDout128_schedule : (setDout128 y s).schedule = s.schedule := rfl
@[simp] theorem setDout128_reads : (setDout128 y s).reads = s.reads := rfl
end

section
variable (y : BitVec 64) (s : State)
@[simp] theorem setDout64_params : (setDout64 y s).params = s.params := rfl
@[simp] theorem setDout64_cmd : (setDout64 y s).cmd = s.cmd := rfl
@[simp] theorem setDout64_done : (setDout64 y s).done = s.done := rfl
@[simp] theorem setDout64_werr : (setDout64 y s).werr = s.werr := rfl
@[simp] theorem setDout64_err : (setDout64 y s).err = s.err := rfl
@[simp] theorem setDout64_doneIe : (setDout64 y s).doneIe = s.doneIe := rfl
@[simp] theorem setDout64_werrIe : (setDout64 y s).werrIe = s.werrIe := rfl
@[simp] theorem setDout64_adPtr : (setDout64 y s).adPtr = s.adPtr := rfl
@[simp] theorem setDout64_adLen : (setDout64 y s).adLen = s.adLen := rfl
@[simp] theorem setDout64_msgPtr : (setDout64 y s).msgPtr = s.msgPtr := rfl
@[simp] theorem setDout64_msgLen : (setDout64 y s).msgLen = s.msgLen := rfl
@[simp] theorem setDout64_outPtr : (setDout64 y s).outPtr = s.outPtr := rfl
@[simp] theorem setDout64_key : (setDout64 y s).key = s.key := rfl
@[simp] theorem setDout64_nonce : (setDout64 y s).nonce = s.nonce := rfl
@[simp] theorem setDout64_din : (setDout64 y s).din = s.din := rfl
@[simp] theorem setDout64_dout : (setDout64 y s).dout = #v[y.extractLsb' 32 32, y.extractLsb' 0 32, 0#32, 0#32] := rfl
@[simp] theorem setDout64_tag : (setDout64 y s).tag = s.tag := rfl
@[simp] theorem setDout64_seq : (setDout64 y s).seq = s.seq := rfl
@[simp] theorem setDout64_buf : (setDout64 y s).buf = s.buf := rfl
@[simp] theorem setDout64_resets : (setDout64 y s).resets = s.resets := rfl
@[simp] theorem setDout64_program : (setDout64 y s).program = s.program := rfl
@[simp] theorem setDout64_schedule : (setDout64 y s).schedule = s.schedule := rfl
@[simp] theorem setDout64_reads : (setDout64 y s).reads = s.reads := rfl
end

section
variable (t : Block) (s : State)
@[simp] theorem setTag128_params : (setTag128 t s).params = s.params := rfl
@[simp] theorem setTag128_cmd : (setTag128 t s).cmd = s.cmd := rfl
@[simp] theorem setTag128_done : (setTag128 t s).done = s.done := rfl
@[simp] theorem setTag128_werr : (setTag128 t s).werr = s.werr := rfl
@[simp] theorem setTag128_err : (setTag128 t s).err = s.err := rfl
@[simp] theorem setTag128_doneIe : (setTag128 t s).doneIe = s.doneIe := rfl
@[simp] theorem setTag128_werrIe : (setTag128 t s).werrIe = s.werrIe := rfl
@[simp] theorem setTag128_adPtr : (setTag128 t s).adPtr = s.adPtr := rfl
@[simp] theorem setTag128_adLen : (setTag128 t s).adLen = s.adLen := rfl
@[simp] theorem setTag128_msgPtr : (setTag128 t s).msgPtr = s.msgPtr := rfl
@[simp] theorem setTag128_msgLen : (setTag128 t s).msgLen = s.msgLen := rfl
@[simp] theorem setTag128_outPtr : (setTag128 t s).outPtr = s.outPtr := rfl
@[simp] theorem setTag128_key : (setTag128 t s).key = s.key := rfl
@[simp] theorem setTag128_nonce : (setTag128 t s).nonce = s.nonce := rfl
@[simp] theorem setTag128_din : (setTag128 t s).din = s.din := rfl
@[simp] theorem setTag128_dout : (setTag128 t s).dout = s.dout := rfl
@[simp] theorem setTag128_tag : (setTag128 t s).tag = #v[t.extractLsb' 96 32, t.extractLsb' 64 32, t.extractLsb' 32 32, t.extractLsb' 0 32] := rfl
@[simp] theorem setTag128_seq : (setTag128 t s).seq = s.seq := rfl
@[simp] theorem setTag128_buf : (setTag128 t s).buf = s.buf := rfl
@[simp] theorem setTag128_resets : (setTag128 t s).resets = s.resets := rfl
@[simp] theorem setTag128_program : (setTag128 t s).program = s.program := rfl
@[simp] theorem setTag128_schedule : (setTag128 t s).schedule = s.schedule := rfl
@[simp] theorem setTag128_reads : (setTag128 t s).reads = s.reads := rfl
end

section
variable (t : BitVec 64) (s : State)
@[simp] theorem setTag64_params : (setTag64 t s).params = s.params := rfl
@[simp] theorem setTag64_cmd : (setTag64 t s).cmd = s.cmd := rfl
@[simp] theorem setTag64_done : (setTag64 t s).done = s.done := rfl
@[simp] theorem setTag64_werr : (setTag64 t s).werr = s.werr := rfl
@[simp] theorem setTag64_err : (setTag64 t s).err = s.err := rfl
@[simp] theorem setTag64_doneIe : (setTag64 t s).doneIe = s.doneIe := rfl
@[simp] theorem setTag64_werrIe : (setTag64 t s).werrIe = s.werrIe := rfl
@[simp] theorem setTag64_adPtr : (setTag64 t s).adPtr = s.adPtr := rfl
@[simp] theorem setTag64_adLen : (setTag64 t s).adLen = s.adLen := rfl
@[simp] theorem setTag64_msgPtr : (setTag64 t s).msgPtr = s.msgPtr := rfl
@[simp] theorem setTag64_msgLen : (setTag64 t s).msgLen = s.msgLen := rfl
@[simp] theorem setTag64_outPtr : (setTag64 t s).outPtr = s.outPtr := rfl
@[simp] theorem setTag64_key : (setTag64 t s).key = s.key := rfl
@[simp] theorem setTag64_nonce : (setTag64 t s).nonce = s.nonce := rfl
@[simp] theorem setTag64_din : (setTag64 t s).din = s.din := rfl
@[simp] theorem setTag64_dout : (setTag64 t s).dout = s.dout := rfl
@[simp] theorem setTag64_tag : (setTag64 t s).tag = #v[t.extractLsb' 32 32, t.extractLsb' 0 32, 0#32, 0#32] := rfl
@[simp] theorem setTag64_seq : (setTag64 t s).seq = s.seq := rfl
@[simp] theorem setTag64_buf : (setTag64 t s).buf = s.buf := rfl
@[simp] theorem setTag64_resets : (setTag64 t s).resets = s.resets := rfl
@[simp] theorem setTag64_program : (setTag64 t s).program = s.program := rfl
@[simp] theorem setTag64_schedule : (setTag64 t s).schedule = s.schedule := rfl
@[simp] theorem setTag64_reads : (setTag64 t s).reads = s.reads := rfl
end

section
variable (s : State)
@[simp] theorem clearData_params : (clearData s).params = s.params := rfl
@[simp] theorem clearData_cmd : (clearData s).cmd = s.cmd := rfl
@[simp] theorem clearData_done : (clearData s).done = s.done := rfl
@[simp] theorem clearData_werr : (clearData s).werr = false := rfl
@[simp] theorem clearData_err : (clearData s).err = s.err := rfl
@[simp] theorem clearData_doneIe : (clearData s).doneIe = s.doneIe := rfl
@[simp] theorem clearData_werrIe : (clearData s).werrIe = s.werrIe := rfl
@[simp] theorem clearData_adPtr : (clearData s).adPtr = 0#32 := rfl
@[simp] theorem clearData_adLen : (clearData s).adLen = 0#32 := rfl
@[simp] theorem clearData_msgPtr : (clearData s).msgPtr = 0#32 := rfl
@[simp] theorem clearData_msgLen : (clearData s).msgLen = 0#32 := rfl
@[simp] theorem clearData_outPtr : (clearData s).outPtr = 0#32 := rfl
@[simp] theorem clearData_key : (clearData s).key = zero12 := rfl
@[simp] theorem clearData_nonce : (clearData s).nonce = zero4 := rfl
@[simp] theorem clearData_din : (clearData s).din = zero4 := rfl
@[simp] theorem clearData_dout : (clearData s).dout = zero4 := rfl
@[simp] theorem clearData_tag : (clearData s).tag = zero4 := rfl
@[simp] theorem clearData_seq : (clearData s).seq = s.seq := rfl
@[simp] theorem clearData_buf : (clearData s).buf = zeroCells s.params.bufBytes := rfl
@[simp] theorem clearData_resets : (clearData s).resets = s.resets := rfl
@[simp] theorem clearData_program : (clearData s).program = s.program := rfl
@[simp] theorem clearData_schedule : (clearData s).schedule = s.schedule := rfl
@[simp] theorem clearData_reads : (clearData s).reads = s.reads := rfl
end

section
variable (s : State)
@[simp] theorem resetEvent_params : (resetEvent s).params = s.params := rfl
@[simp] theorem resetEvent_cmd : (resetEvent s).cmd = 0#32 := rfl
@[simp] theorem resetEvent_done : (resetEvent s).done = false := rfl
@[simp] theorem resetEvent_werr : (resetEvent s).werr = false := rfl
@[simp] theorem resetEvent_err : (resetEvent s).err = ErrCode.ok := rfl
@[simp] theorem resetEvent_doneIe : (resetEvent s).doneIe = false := rfl
@[simp] theorem resetEvent_werrIe : (resetEvent s).werrIe = false := rfl
@[simp] theorem resetEvent_adPtr : (resetEvent s).adPtr = 0#32 := rfl
@[simp] theorem resetEvent_adLen : (resetEvent s).adLen = 0#32 := rfl
@[simp] theorem resetEvent_msgPtr : (resetEvent s).msgPtr = 0#32 := rfl
@[simp] theorem resetEvent_msgLen : (resetEvent s).msgLen = 0#32 := rfl
@[simp] theorem resetEvent_outPtr : (resetEvent s).outPtr = 0#32 := rfl
@[simp] theorem resetEvent_key : (resetEvent s).key = zero12 := rfl
@[simp] theorem resetEvent_nonce : (resetEvent s).nonce = zero4 := rfl
@[simp] theorem resetEvent_din : (resetEvent s).din = zero4 := rfl
@[simp] theorem resetEvent_dout : (resetEvent s).dout = zero4 := rfl
@[simp] theorem resetEvent_tag : (resetEvent s).tag = zero4 := rfl
@[simp] theorem resetEvent_seq : (resetEvent s).seq = Sequencer.idle := rfl
@[simp] theorem resetEvent_buf : (resetEvent s).buf = [] := rfl
@[simp] theorem resetEvent_resets : (resetEvent s).resets = s.resets + 1 := rfl
@[simp] theorem resetEvent_program : (resetEvent s).program = s.program := rfl
@[simp] theorem resetEvent_schedule : (resetEvent s).schedule = s.schedule := rfl
@[simp] theorem resetEvent_reads : (resetEvent s).reads = s.reads := rfl
end

section
variable (v : Word) (rest : List HostOp) (s : State)
@[simp] theorem returned_params : (returned v rest s).params = s.params := rfl
@[simp] theorem returned_cmd : (returned v rest s).cmd = s.cmd := rfl
@[simp] theorem returned_done : (returned v rest s).done = s.done := rfl
@[simp] theorem returned_werr : (returned v rest s).werr = s.werr := rfl
@[simp] theorem returned_err : (returned v rest s).err = s.err := rfl
@[simp] theorem returned_doneIe : (returned v rest s).doneIe = s.doneIe := rfl
@[simp] theorem returned_werrIe : (returned v rest s).werrIe = s.werrIe := rfl
@[simp] theorem returned_adPtr : (returned v rest s).adPtr = s.adPtr := rfl
@[simp] theorem returned_adLen : (returned v rest s).adLen = s.adLen := rfl
@[simp] theorem returned_msgPtr : (returned v rest s).msgPtr = s.msgPtr := rfl
@[simp] theorem returned_msgLen : (returned v rest s).msgLen = s.msgLen := rfl
@[simp] theorem returned_outPtr : (returned v rest s).outPtr = s.outPtr := rfl
@[simp] theorem returned_key : (returned v rest s).key = s.key := rfl
@[simp] theorem returned_nonce : (returned v rest s).nonce = s.nonce := rfl
@[simp] theorem returned_din : (returned v rest s).din = s.din := rfl
@[simp] theorem returned_dout : (returned v rest s).dout = s.dout := rfl
@[simp] theorem returned_tag : (returned v rest s).tag = s.tag := rfl
@[simp] theorem returned_seq : (returned v rest s).seq = s.seq := rfl
@[simp] theorem returned_buf : (returned v rest s).buf = s.buf := rfl
@[simp] theorem returned_resets : (returned v rest s).resets = s.resets := rfl
@[simp] theorem returned_program : (returned v rest s).program = rest := rfl
@[simp] theorem returned_schedule : (returned v rest s).schedule = s.schedule := rfl
@[simp] theorem returned_reads : (returned v rest s).reads = s.reads ++ [v] := rfl
end

section
variable (w : Word) (s : State)
@[simp] theorem withCommandInFlight_params : (withCommandInFlight w s).params = s.params := rfl
@[simp] theorem withCommandInFlight_cmd : (withCommandInFlight w s).cmd = w := rfl
@[simp] theorem withCommandInFlight_done : (withCommandInFlight w s).done = false := rfl
@[simp] theorem withCommandInFlight_werr : (withCommandInFlight w s).werr = s.werr := rfl
@[simp] theorem withCommandInFlight_err : (withCommandInFlight w s).err = ErrCode.ok := rfl
@[simp] theorem withCommandInFlight_doneIe : (withCommandInFlight w s).doneIe = s.doneIe := rfl
@[simp] theorem withCommandInFlight_werrIe : (withCommandInFlight w s).werrIe = s.werrIe := rfl
@[simp] theorem withCommandInFlight_adPtr : (withCommandInFlight w s).adPtr = s.adPtr := rfl
@[simp] theorem withCommandInFlight_adLen : (withCommandInFlight w s).adLen = s.adLen := rfl
@[simp] theorem withCommandInFlight_msgPtr : (withCommandInFlight w s).msgPtr = s.msgPtr := rfl
@[simp] theorem withCommandInFlight_msgLen : (withCommandInFlight w s).msgLen = s.msgLen := rfl
@[simp] theorem withCommandInFlight_outPtr : (withCommandInFlight w s).outPtr = s.outPtr := rfl
@[simp] theorem withCommandInFlight_key : (withCommandInFlight w s).key = s.key := rfl
@[simp] theorem withCommandInFlight_nonce : (withCommandInFlight w s).nonce = s.nonce := rfl
@[simp] theorem withCommandInFlight_din : (withCommandInFlight w s).din = s.din := rfl
@[simp] theorem withCommandInFlight_dout : (withCommandInFlight w s).dout = s.dout := rfl
@[simp] theorem withCommandInFlight_tag : (withCommandInFlight w s).tag = s.tag := rfl
@[simp] theorem withCommandInFlight_seq : (withCommandInFlight w s).seq = Sequencer.busy w := rfl
@[simp] theorem withCommandInFlight_buf : (withCommandInFlight w s).buf = s.buf := rfl
@[simp] theorem withCommandInFlight_resets : (withCommandInFlight w s).resets = s.resets := rfl
@[simp] theorem withCommandInFlight_program : (withCommandInFlight w s).program = s.program := rfl
@[simp] theorem withCommandInFlight_schedule : (withCommandInFlight w s).schedule = completeNext s.schedule := rfl
@[simp] theorem withCommandInFlight_reads : (withCommandInFlight w s).reads = s.reads := rfl
end

end Sys2Proof.Machine
end

