-- ==== Sys2Proof/Laws/Ops.lean ====
section
/-! SUPPORT. What each shared operation can do, said once: the ends of a command, the range check, the
host's accesses and turns, and the step (46_system.md R1010). -/

namespace Sys2Proof.Machine

open Sys2Proof

/-! ### The ends of a command -/

/-- A successful end is the completion with code OK, and nothing else. -/
@[simp] theorem succeed_eq_next (s t : State) : succeed s = .next t ↔ t = complete .ok s := by
  constructor
  · intro h
    cases h
    rfl
  · intro h
    subst h
    rfl

/-- An error end is the completion with its code, and nothing else. -/
@[simp] theorem raiseErr_eq_next (code : ErrCode) (s t : State) :
    raiseErr code s = .next t ↔ t = complete code s := by
  constructor
  · intro h
    cases h
    rfl
  · intro h
    subst h
    rfl

/-! ### Range check -/

/-- A region passes if it is empty or ends within BUF (20_memory.md R221). -/
theorem regionOk_iff (bufBytes p len : Nat) :
    regionOk bufBytes p len = true ↔ len = 0 ∨ p + (len + 1) / 2 ≤ bufBytes := by
  simp [regionOk]

/-- The three regions of an AEAD command (20_memory.md R221). -/
theorem regionsOk_iff (s : State) :
    regionsOk s = true ↔
      (s.adLen.toNat = 0 ∨ s.adPtr.toNat + (s.adLen.toNat + 1) / 2 ≤ s.params.bufBytes) ∧
      (s.msgLen.toNat = 0 ∨ s.msgPtr.toNat + (s.msgLen.toNat + 1) / 2 ≤ s.params.bufBytes) ∧
      (s.msgLen.toNat = 0 ∨ s.outPtr.toNat + (s.msgLen.toNat + 1) / 2 ≤ s.params.bufBytes) := by
  simp only [regionsOk, Bool.and_eq_true, regionOk_iff, and_assoc]

/-! ### Results by width -/

/-- A SKINNY result changes DOUT only. -/
theorem setSkinnyOutput_eq (n : BlockSize) (y : BitVec (blockBits n)) (s : State) :
    setSkinnyOutput n y s = { s with dout := (setSkinnyOutput n y s).dout } := by
  cases n <;> rfl

/-- A SKINNY-AEAD tag changes TAG only. -/
theorem setSkaeadTag_eq (tag : SkaeadTag) (s : State) :
    setSkaeadTag tag s = { s with tag := (setSkaeadTag tag s).tag } := by
  cases tag <;> rfl

/-! ### The sequencer and the host -/

theorem isBusy_iff (s : State) : isBusy s = true ↔ ∃ w, s.seq = .busy w := by
  unfold isBusy
  cases s.seq <;> simp

theorem isBusy_of_seq {s : State} {w : Word} (h : s.seq = .busy w) : isBusy s = true := by
  simp [isBusy, h]

theorem not_isBusy_of_idle {s : State} (h : s.seq = .idle) : isBusy s = false := by
  simp [isBusy, h]

/-- What a write can do while BUSY (10_state.md R145). -/
theorem hostWrite_busy {s : State} (h : isBusy s = true) (off : BitVec 13) (v : Word) :
    hostWrite off v s = dropWrite s ∨ hostWrite off v s = writeStatus v s ∨
      hostWrite off v s = writeIrqEn v s := by
  unfold hostWrite
  rw [h]
  cases targetOf off <;> simp [writableWhileBusy, writeIdle]

/-- What a write does while IDLE. -/
theorem hostWrite_idle {s : State} (h : isBusy s = false) (off : BitVec 13) (v : Word) :
    hostWrite off v s = writeIdle v s (targetOf off) := by
  simp [hostWrite, h]

/-- What a turn of the host can do (30_encoding.md R340, R342). -/
theorem hostTurn_cases (s : State) :
    (s.program = [] ∧ hostTurn s = s) ∨
    (∃ off v rest, s.program = .wr off v :: rest ∧
      hostTurn s = hostWrite off v { s with program := rest }) ∨
    (∃ off rest, s.program = .rd off :: rest ∧ hostTurn s = returned (hostRead s off) rest s) ∨
    (∃ rest, s.program = .wait :: rest ∧
      (hostTurn s = s ∨ hostTurn s = returned (hostRead s offStatus) rest s)) := by
  unfold hostTurn
  split
  · exact .inl ⟨by assumption, rfl⟩
  · exact .inr (.inl ⟨_, _, _, by assumption, rfl⟩)
  · exact .inr (.inr (.inl ⟨_, _, by assumption, rfl⟩))
  · refine .inr (.inr (.inr ⟨_, by assumption, ?_⟩))
    dsimp only
    split
    · exact .inl rfl
    · exact .inr rfl

/-- What a step can be: the turn of one agent, after the schedule gives it or by default
(46_system.md R1010). -/
theorem step_cases (s : State) :
    (∃ turn rest, s.schedule = turn :: rest ∧ step s = takeTurn turn { s with schedule := rest }) ∨
    (s.schedule = [] ∧ isBusy s = true ∧ step s = completeTurn s) ∨
    (s.schedule = [] ∧ isBusy s = false ∧ step s = .next (hostTurn s)) := by
  unfold step scheduledStep
  split
  · rename_i h
    by_cases hb : isBusy s = true
    · exact .inr (.inl ⟨h, hb, by simp [defaultTurn, hb, takeTurn]⟩)
    · have hb' : isBusy s = false := by simpa using hb
      exact .inr (.inr ⟨h, hb', by simp [defaultTurn, hb', takeTurn]⟩)
  · exact .inl ⟨_, _, by assumption, rfl⟩

/-- What the Complete step can be (10_state.md R162, 46_system.md R1012). -/
theorem completeTurn_cases (s : State) :
    (s.seq = .idle ∧ completeTurn s = .next s) ∨
    (∃ w i, s.seq = .busy w ∧ decode w = .ok i ∧ completeTurn s = exec i s) ∨
    (∃ w e, s.seq = .busy w ∧ decode w = .error e ∧ completeTurn s = raiseErr .illegal s) := by
  unfold completeTurn wordInFlight
  cases hs : s.seq with
  | idle => exact .inl ⟨rfl, rfl⟩
  | busy w =>
    cases hd : decode w with
    | ok i => exact .inr (.inl ⟨w, i, rfl, hd, by simp [hd]⟩)
    | error e => exact .inr (.inr ⟨w, e, rfl, hd, by simp [hd]⟩)

end Sys2Proof.Machine
end

