-- ==== Sys2Proof/Laws/Bus.lean ====
section
/-! SUPPORT. The window: which offsets name which register (10_state.md R102), and the words that STATUS
and IRQ_EN read, bit by bit (10_state.md R112, R113). -/

namespace Sys2Proof.Machine

open Sys2Proof

/-- What an offset names, by its word index: every case of the register map and the BUF window
(10_state.md R102, 20_memory.md R210). -/
theorem targetOf_cases (off : BitVec 13) :
    (off.toNat / 4 = 0 ∧ targetOf off = .id) ∨
    (off.toNat / 4 = 1 ∧ targetOf off = .cmd) ∨
    (off.toNat / 4 = 2 ∧ targetOf off = .status) ∨
    (off.toNat / 4 = 3 ∧ targetOf off = .irqEn) ∨
    (off.toNat / 4 = 4 ∧ targetOf off = .adPtr) ∨
    (off.toNat / 4 = 5 ∧ targetOf off = .adLen) ∨
    (off.toNat / 4 = 6 ∧ targetOf off = .msgPtr) ∨
    (off.toNat / 4 = 7 ∧ targetOf off = .msgLen) ∨
    (off.toNat / 4 = 8 ∧ targetOf off = .outPtr) ∨
    (∃ i : Fin 12, off.toNat / 4 = 16 + i.val ∧ targetOf off = .key i) ∨
    (∃ i : Fin 4, off.toNat / 4 = 32 + i.val ∧ targetOf off = .nonce i) ∨
    (∃ i : Fin 4, off.toNat / 4 = 36 + i.val ∧ targetOf off = .din i) ∨
    (∃ i : Fin 4, off.toNat / 4 = 40 + i.val ∧ targetOf off = .dout i) ∨
    (∃ i : Fin 4, off.toNat / 4 = 44 + i.val ∧ targetOf off = .tag i) ∨
    (((9 ≤ off.toNat / 4 ∧ off.toNat / 4 < 16) ∨ (28 ≤ off.toNat / 4 ∧ off.toNat / 4 < 32) ∨
      (48 ≤ off.toNat / 4 ∧ off.toNat / 4 < 1024)) ∧ targetOf off = .reserved) ∨
    (∃ w, off.toNat / 4 = 1024 + w ∧ targetOf off = .buf w) := by
  have hfin : ∀ (m b r : Nat) [NeZero m], b ≤ r → r < b + m → r = b + (Fin.ofNat m (r - b)).val := by
    intro m b r _ h1 h2
    have : (r - b) % m = r - b := Nat.mod_eq_of_lt (by omega)
    simp only [Fin.val_ofNat, this]
    omega
  simp only [targetOf]
  generalize off.toNat / 4 = r
  by_cases hw : r < 1024
  · rw [if_pos (by omega)]
    unfold registerAt
    by_cases h0 : r = 0x000 / 4
    · rw [if_pos h0]
      exact .inl ⟨by omega, rfl⟩
    rw [if_neg h0]
    right
    by_cases h1 : r = 0x004 / 4
    · rw [if_pos h1]
      exact .inl ⟨by omega, rfl⟩
    rw [if_neg h1]
    right
    by_cases h2 : r = 0x008 / 4
    · rw [if_pos h2]
      exact .inl ⟨by omega, rfl⟩
    rw [if_neg h2]
    right
    by_cases h3 : r = 0x00C / 4
    · rw [if_pos h3]
      exact .inl ⟨by omega, rfl⟩
    rw [if_neg h3]
    right
    by_cases h4 : r = 0x010 / 4
    · rw [if_pos h4]
      exact .inl ⟨by omega, rfl⟩
    rw [if_neg h4]
    right
    by_cases h5 : r = 0x014 / 4
    · rw [if_pos h5]
      exact .inl ⟨by omega, rfl⟩
    rw [if_neg h5]
    right
    by_cases h6 : r = 0x018 / 4
    · rw [if_pos h6]
      exact .inl ⟨by omega, rfl⟩
    rw [if_neg h6]
    right
    by_cases h7 : r = 0x01C / 4
    · rw [if_pos h7]
      exact .inl ⟨by omega, rfl⟩
    rw [if_neg h7]
    right
    by_cases h8 : r = 0x020 / 4
    · rw [if_pos h8]
      exact .inl ⟨by omega, rfl⟩
    rw [if_neg h8]
    right
    by_cases h9 : 0x040 / 4 ≤ r ∧ r < 0x070 / 4
    · rw [if_pos h9]
      exact .inl ⟨_, hfin 12 16 r (by omega) (by omega), rfl⟩
    rw [if_neg h9]
    right
    by_cases h10 : 0x080 / 4 ≤ r ∧ r < 0x090 / 4
    · rw [if_pos h10]
      exact .inl ⟨_, hfin 4 32 r (by omega) (by omega), rfl⟩
    rw [if_neg h10]
    right
    by_cases h11 : 0x090 / 4 ≤ r ∧ r < 0x0A0 / 4
    · rw [if_pos h11]
      exact .inl ⟨_, hfin 4 36 r (by omega) (by omega), rfl⟩
    rw [if_neg h11]
    right
    by_cases h12 : 0x0A0 / 4 ≤ r ∧ r < 0x0B0 / 4
    · rw [if_pos h12]
      exact .inl ⟨_, hfin 4 40 r (by omega) (by omega), rfl⟩
    rw [if_neg h12]
    right
    by_cases h13 : 0x0B0 / 4 ≤ r ∧ r < 0x0C0 / 4
    · rw [if_pos h13]
      exact .inl ⟨_, hfin 4 44 r (by omega) (by omega), rfl⟩
    rw [if_neg h13]
    right
    exact .inl ⟨by omega, rfl⟩
  · rw [if_neg (by omega)]
    iterate 15 right
    exact ⟨r - 1024, by omega, rfl⟩

/-! ### STATUS and IRQ_EN as words -/

/-- The bits of the word that STATUS reads (10_state.md R112). -/
theorem statusWord_bits (s : State) :
    (statusWord s).getLsbD 0 = isBusy s ∧ (statusWord s).getLsbD 1 = s.done ∧
    (statusWord s).getLsbD 2 = s.werr ∧ (statusWord s).getLsbD 3 = false ∧
    (statusWord s).extractLsb' 4 4 = errBits s.err ∧ (statusWord s).extractLsb' 8 24 = 0#24 := by
  unfold statusWord
  cases s.err <;> cases s.werr <;> cases s.done <;> cases isBusy s <;> decide

/-- The bits of the word that IRQ_EN reads (10_state.md R113). -/
theorem irqEnWord_bits (s : State) :
    (irqEnWord s).getLsbD 0 = s.doneIe ∧ (irqEnWord s).getLsbD 1 = s.werrIe ∧
    (irqEnWord s).extractLsb' 2 30 = 0#30 := by
  unfold irqEnWord
  cases s.werrIe <;> cases s.doneIe <;> decide

end Sys2Proof.Machine
end

