-- ==== Sys2Proof/Laws/Memory.lean ====
section
/-! SUPPORT. BUF: reading after writing, and the canonical form that every operation keeps
(10_state.md R150, 20_memory.md R220). -/

namespace Sys2Proof.Machine

open Sys2Proof

/-- Reading after writing one byte: the byte at its address, every other address as before. -/
@[simp] theorem cellRead_cellWrite (m : Memory) (a x : Nat) (b : Byte) :
    cellRead (cellWrite m a b) x = if x = a then some b else cellRead m x := by
  induction m with
  | nil =>
    simp only [cellWrite, cellRead]
    split <;> split <;> first | rfl | omega
  | cons p rest ih =>
    obtain ⟨y, c⟩ := p
    simp only [cellWrite]
    split
    · simp only [cellRead]
      by_cases hx : x = a
      · rw [if_pos hx, if_pos hx.symm]
      · rw [if_neg hx, if_neg (Ne.symm hx)]
    · split
      · subst_vars
        simp only [cellRead]
        split <;> split <;> first | rfl | omega
      · simp only [cellRead, ih]
        split <;> split <;> first | rfl | omega

/-- Reading after writing consecutive bytes. -/
theorem cellRead_cellsWrite (bytes : List Byte) (m : Memory) (a x : Nat) :
    cellRead (cellsWrite m a bytes) x =
      if a ≤ x ∧ x < a + bytes.length then bytes[x - a]? else cellRead m x := by
  induction bytes generalizing m a with
  | nil =>
    have h : ¬ (a ≤ x ∧ x < a + ([] : List Byte).length) := by
      rw [List.length_nil]
      omega
    rw [if_neg h, cellsWrite]
  | cons b rest ih =>
    rw [cellsWrite, ih, List.length_cons, cellRead_cellWrite]
    by_cases hx : x = a
    · subst hx
      have h1 : ¬ (x + 1 ≤ x ∧ x < x + 1 + rest.length) := by omega
      have h2 : x ≤ x ∧ x < x + (rest.length + 1) := by omega
      rw [if_neg h1, if_pos rfl, if_pos h2, Nat.sub_self]
      rfl
    · by_cases h : a + 1 ≤ x ∧ x < a + 1 + rest.length
      · have h2 : a ≤ x ∧ x < a + (rest.length + 1) := by omega
        have e : x - a = (x - (a + 1)) + 1 := by omega
        rw [if_pos h, if_pos h2, e, List.getElem?_cons_succ]
      · have h2 : ¬ (a ≤ x ∧ x < a + (rest.length + 1)) := by omega
        rw [if_neg h, if_neg h2, if_neg hx]

/-- A byte of BUF after a write. -/
theorem bufByte_bufWrite (a x : Nat) (bytes : List Byte) (s : State) :
    bufByte (bufWrite a bytes s) x =
      if a ≤ x ∧ x < a + bytes.length then bytes.getD (x - a) 0#8 else bufByte s x := by
  by_cases h : a ≤ x ∧ x < a + bytes.length
  · have hl : x - a < bytes.length := by omega
    simp [bufByte, cellRead_cellsWrite, h, hl]
  · simp [bufByte, cellRead_cellsWrite, h]

/-- Every byte of the list of CLEAR reads 0 (46_system.md R1002). -/
theorem cellRead_zeroCells (n a : Nat) (h : a < n) : cellRead (zeroCells n) a = some 0#8 := by
  have key : ∀ l : List Nat, a ∈ l → cellRead (l.map fun x => (x, 0#8)) a = some 0#8 := by
    intro l
    induction l with
    | nil => intro hm; cases hm
    | cons y l ih =>
      intro hm
      simp only [List.map_cons, cellRead]
      split
      · rfl
      · rcases List.mem_cons.mp hm with e | e
        · omega
        · exact ih e
  exact key _ (List.mem_range.mpr h)

/-! ### The canonical form -/

/-- The head of a well-formed list is below the bound and below the rest; the rest is well-formed. -/
theorem Memory.wf_cons (bound x : Nat) (c : Byte) (m : Memory) :
    Memory.wf bound ((x, c) :: m) = true ↔
      x < bound ∧ Memory.wf bound m = true ∧ ∀ p ∈ m, x < p.1 := by
  induction m generalizing x c with
  | nil => simp [Memory.wf]
  | cons q m ih =>
    obtain ⟨y, d⟩ := q
    simp only [Memory.wf, Bool.and_eq_true, decide_eq_true_eq]
    rw [ih y d]
    constructor
    · rintro ⟨hxy, hy, hm, hall⟩
      refine ⟨by omega, ⟨hy, hm, hall⟩, ?_⟩
      intro p hp
      rcases List.mem_cons.mp hp with e | e
      · subst e; exact hxy
      · have := hall p e
        omega
    · rintro ⟨_, hm, hall⟩
      exact ⟨hall (y, d) (List.mem_cons_self ..), hm⟩

/-- The addresses of a list after a write: the old ones and the written one. -/
theorem mem_cellWrite (m : Memory) (a : Nat) (b : Byte) (p : Host.Cell)
    (h : p ∈ cellWrite m a b) : p.1 = a ∨ p ∈ m := by
  induction m with
  | nil =>
    simp only [cellWrite, List.mem_singleton] at h
    exact .inl (by rw [h])
  | cons q m ih =>
    obtain ⟨x, c⟩ := q
    simp only [cellWrite] at h
    split at h
    · rcases List.mem_cons.mp h with e | e
      · exact .inl (by rw [e])
      · exact .inr e
    · split at h
      · rcases List.mem_cons.mp h with e | e
        · exact .inl (by rw [e])
        · exact .inr (List.mem_cons_of_mem _ e)
      · rcases List.mem_cons.mp h with e | e
        · exact .inr (by rw [e]; exact List.mem_cons_self ..)
        · rcases ih e with r | r
          · exact .inl r
          · exact .inr (List.mem_cons_of_mem _ r)

/-- Writing a byte below the bound keeps the canonical form. -/
theorem Memory.wf_cellWrite (bound : Nat) (m : Memory) (a : Nat) (b : Byte) (ha : a < bound)
    (h : Memory.wf bound m = true) : Memory.wf bound (cellWrite m a b) = true := by
  induction m with
  | nil => simpa [cellWrite, Memory.wf] using ha
  | cons q m ih =>
    obtain ⟨x, c⟩ := q
    obtain ⟨hx, hm, hall⟩ := (Memory.wf_cons bound x c m).mp h
    simp only [cellWrite]
    split
    · refine (Memory.wf_cons bound a b _).mpr ⟨ha, h, ?_⟩
      intro p hp
      rcases List.mem_cons.mp hp with e | e
      · rw [e]; assumption
      · have := hall p e
        omega
    · split
      · subst_vars
        exact (Memory.wf_cons bound _ b m).mpr ⟨ha, hm, hall⟩
      · refine (Memory.wf_cons bound x c _).mpr ⟨hx, ih hm, ?_⟩
        intro p hp
        rcases mem_cellWrite m a b p hp with e | e
        · omega
        · exact hall p e

/-- Writing consecutive bytes below the bound keeps the canonical form. -/
theorem Memory.wf_cellsWrite (bound : Nat) (bytes : List Byte) (m : Memory) (a : Nat)
    (ha : a + bytes.length ≤ bound) (h : Memory.wf bound m = true) :
    Memory.wf bound (cellsWrite m a bytes) = true := by
  induction bytes generalizing m a with
  | nil => simpa [cellsWrite] using h
  | cons b rest ih =>
    rw [List.length_cons] at ha
    rw [cellsWrite]
    exact ih _ _ (by omega) (Memory.wf_cellWrite bound m a b (by omega) h)

/-- The list of CLEAR is in canonical form. -/
theorem Memory.wf_zeroCells (n : Nat) : Memory.wf n (zeroCells n) = true := by
  have key : ∀ l : List Nat, (∀ a ∈ l, a < n) → l.Pairwise (· < ·) →
      Memory.wf n (l.map fun x => (x, 0#8)) = true := by
    intro l
    induction l with
    | nil => intro _ _; rfl
    | cons y l ih =>
      intro hb hp
      rw [List.pairwise_cons] at hp
      refine (Memory.wf_cons n y 0#8 _).mpr
        ⟨hb y (List.mem_cons_self ..), ih (fun a h => hb a (List.mem_cons_of_mem _ h)) hp.2, ?_⟩
      intro p hm
      obtain ⟨z, hz, e⟩ := List.mem_map.mp hm
      subst e
      exact hp.1 z hz
  exact key _ (fun a h => List.mem_range.mp h) List.pairwise_lt_range

/-- BUF after reset is in canonical form: nothing is written. -/
theorem Memory.wf_reset : State.reset.buf.wf State.reset.params.bufBytes = true := rfl

/-! ### Nibble strings -/

theorem length_nibbleBytes : ∀ v : List Nibble, (nibbleBytes v).length = (v.length + 1) / 2
  | [] => rfl
  | [_] => by simp [nibbleBytes]
  | _ :: _ :: rest => by
    simp only [nibbleBytes, List.length_cons, length_nibbleBytes rest]
    omega

theorem length_nibRead (s : State) (a len : Nat) : (nibRead s a len).length = len := by
  simp [nibRead]

/-- `NibWrite` leaves every byte outside its region as it was (20_memory.md R220). -/
theorem bufByte_nibWrite_outside (a x : Nat) (v : List Nibble) (s : State)
    (h : ¬ inNibRegion a v.length x) : bufByte (nibWrite a v s) x = bufByte s x := by
  have h2 : ¬ (a ≤ x ∧ x < a + (nibbleBytes v).length) := by
    rw [length_nibbleBytes]
    exact h
  rw [nibWrite, bufByte_bufWrite, if_neg h2]

end Sys2Proof.Machine
end

