-- ==== Sys2Proof/Laws/Modes.lean ====
section
/-! SUPPORT. What one pass of the AEAD modes does, said once as the loop that the rules write: later
proofs cite these and never unfold a pass (44_gift_cofb.md R810-R812, 45_skinny_aead.md R910, R913). -/

namespace Sys2Proof.Machine

open Sys2Proof

/-! ### GIFT-COFB -/

/-- The mask of the last block as a number of triplings (44_gift_cofb.md R811). -/
theorem cofbLastMask_eq_iterate (len : Nat) (noMessage : Bool) (delta : BitVec 64) :
    cofbLastMask len noMessage delta =
      triple^[1 + (if len < 32 then 1 else 0) + (if noMessage then 2 else 0)] delta := by
  unfold cofbLastMask
  by_cases h : len < 32 <;> cases noMessage <;> simp [h, Function.iterate_succ]

/-- The cipher input of a block, its parts written out (44_gift_cofb.md R802-R804). -/
theorem cofbInput_eq (y : Block) (delta : BitVec 64) (m : List Nibble) :
    cofbInput y delta m = (y.extractLsb' 0 64 ++ (y.extractLsb' 64 64).rotateLeft 1) ^^^ blk m ^^^
      (delta ++ 0#64) := rfl

/-- The mask of a block that is not the last. -/
theorem cofbBlockMask_of_lt {k i : Nat} (h : i + 1 < k) (noMessage : Bool) (b : List Nibble)
    (delta : BitVec 64) : cofbBlockMask k noMessage i b delta = double delta := if_pos h

/-- The mask of the last block. -/
theorem cofbBlockMask_of_last {k i : Nat} (h : i + 1 = k) (noMessage : Bool) (b : List Nibble)
    (delta : BitVec 64) :
    cofbBlockMask k noMessage i b delta = cofbLastMask b.length noMessage delta := by
  rw [cofbLastMask_eq_iterate, cofbBlockMask, if_neg (by omega)]

/-- The message pass is the loop of the rule, from block i of k on (44_gift_cofb.md R810, R812). -/
theorem cofbMessagePass_eq_loop (e : Block → Block) (dir : Direction) (k : Nat) :
    ∀ (blocks : List (List Nibble)) (i : Nat) (v : CofbLoop), i + blocks.length = k →
      (cofbLoopFrom e dir k false (blocks.zipIdx i) v).out =
        v.out ++ (cofbMessagePass e dir blocks v.y v.delta).1 ∧
      (cofbLoopFrom e dir k false (blocks.zipIdx i) v).y =
        (cofbMessagePass e dir blocks v.y v.delta).2
  | [], _, v, _ => by simp [cofbLoopFrom, cofbMessagePass]
  | [m], i, v, h => by
    cases dir <;> simp [cofbLoopFrom, cofbMessagePass, cofbLoopBody, cofbPlain, cofbInput_eq,
      cofbBlockMask_of_last (k := k) (i := i) h]
  | m :: m' :: rest, i, v, h => by
    have hk : i + 1 < k := by simp only [List.length_cons] at h; omega
    have ih := cofbMessagePass_eq_loop e dir k (m' :: rest) (i + 1)
      (cofbLoopBody e dir (double v.delta) m v) (by simp only [List.length_cons] at h ⊢; omega)
    simp only [cofbLoopFrom, List.zipIdx_cons, List.foldl_cons] at ih ⊢
    rw [cofbBlockMask_of_lt hk, ih.1, ih.2]
    cases dir <;> simp [cofbMessagePass, cofbLoopBody, cofbPlain, cofbInput_eq]

/-- The associated-data pass is the loop of the rule, from block i of k on (44_gift_cofb.md R810). -/
theorem cofbAdPass_eq_loop (e : Block → Block) (noMessage : Bool) (k : Nat) :
    ∀ (blocks : List (List Nibble)) (i : Nat) (v : CofbLoop), i + blocks.length = k →
      cofbAdPass e noMessage blocks v.y v.delta =
        ((cofbLoopFrom e .encrypt k noMessage (blocks.zipIdx i) v).y,
          (cofbLoopFrom e .encrypt k noMessage (blocks.zipIdx i) v).delta)
  | [], _, v, _ => by simp [cofbLoopFrom, cofbAdPass]
  | [m], i, v, h => by
    simp [cofbLoopFrom, cofbAdPass, cofbLoopBody, cofbInput_eq,
      cofbBlockMask_of_last (k := k) (i := i) h]
  | m :: m' :: rest, i, v, h => by
    have hk : i + 1 < k := by simp only [List.length_cons] at h; omega
    have ih := cofbAdPass_eq_loop e noMessage k (m' :: rest) (i + 1)
      (cofbLoopBody e .encrypt (double v.delta) m v)
      (by simp only [List.length_cons] at h ⊢; omega)
    simp only [cofbLoopFrom, List.zipIdx_cons, List.foldl_cons] at ih ⊢
    rw [cofbBlockMask_of_lt hk, ← ih]
    simp [cofbAdPass, cofbLoopBody, cofbInput_eq]

/-! ### SKINNY-AEAD -/

/-- The cipher call of a role, its tweakey written out (45_skinny_aead.md R901-R903). -/
theorem skaeadE_eq (x : SkaeadContext) (lfsr : BitVec 64) (role : Role) (m : Block) :
    skaeadE x lfsr role m =
      skinnyEncrypt .n128 3 56 (skaeadTka x.memberBits x.nn x.k lfsr (roleIndex role)) m := rfl

/-- The inverse cipher call of a role, its tweakey written out (45_skinny_aead.md R901-R903). -/
theorem skaeadD_eq (x : SkaeadContext) (lfsr : BitVec 64) (role : Role) (c : Block) :
    skaeadD x lfsr role c =
      skinnyDecrypt .n128 3 56 (skaeadTka x.memberBits x.nn x.k lfsr (roleIndex role)) c := rfl

/-- The message pass is the loop of the rules, over blocks of at most 32 nibbles
(45_skinny_aead.md R910, R913, R916). -/
theorem skaeadMessagePass_eq_loop (x : SkaeadContext) (dir : Direction)
    (e d : BitVec 64 → Byte → Block → Block)
    (he : ∀ lfsr role m, e lfsr (roleIndex role) m = skaeadE x lfsr role m)
    (hd : ∀ lfsr role m, d lfsr (roleIndex role) m = skaeadD x lfsr role m) :
    ∀ (blocks : List (List Nibble)) (v : SkaeadLoop), (∀ b ∈ blocks, b.length ≤ 32) →
      (blocks.foldl (skaeadLoopBody e d dir) v).out =
        v.out ++ (skaeadMessagePass x dir blocks v.lfsr v.sigma v.lastPartial).out ∧
      (blocks.foldl (skaeadLoopBody e d dir) v).sigma =
        (skaeadMessagePass x dir blocks v.lfsr v.sigma v.lastPartial).sigma ∧
      (blocks.foldl (skaeadLoopBody e d dir) v).lfsr =
        (skaeadMessagePass x dir blocks v.lfsr v.sigma v.lastPartial).lfsr ∧
      (blocks.foldl (skaeadLoopBody e d dir) v).lastPartial =
        (skaeadMessagePass x dir blocks v.lfsr v.sigma v.lastPartial).lastPartial
  | [], v, _ => by simp [skaeadMessagePass]
  | b :: rest, v, hlen => by
    obtain ⟨h1, h2, h3, h4⟩ := skaeadMessagePass_eq_loop x dir e d he hd rest
      (skaeadLoopBody e d dir v b) (fun c hc => hlen c (List.mem_cons_of_mem b hc))
    have e0 := fun lfsr m => he lfsr .plaintextFull m
    have e1 := fun lfsr m => he lfsr .plaintextPartial m
    have d0 := fun lfsr m => hd lfsr .plaintextFull m
    have hb : b.length ≤ 32 := hlen b List.mem_cons_self
    simp only [roleIndex] at e0 e1 d0
    rw [List.foldl_cons, h1, h2, h3, h4]
    by_cases h : b.length = 32
    · cases dir <;> simp [skaeadMessagePass, skaeadLoopBody, skaeadBlockOut, skaeadBlockPlain, blk,
        lfsrNext, h, e0, d0, packNibbles_blockNibbles, length_blockNibbles]
    · have hm : (xorTrunc b (skaeadE x v.lfsr .plaintextPartial 0#128)).length ≠ 32 := by
        rw [length_xorTrunc]; omega
      cases dir <;> simp [skaeadMessagePass, skaeadLoopBody, skaeadBlockOut, skaeadBlockPlain, blk,
        lfsrNext, h, e1, hm]

/-- The associated-data pass is the loop of the rule (45_skinny_aead.md R910). -/
theorem skaeadAdPass_eq_loop (x : SkaeadContext) (e : BitVec 64 → Byte → Block → Block)
    (he : ∀ lfsr role m, e lfsr (roleIndex role) m = skaeadE x lfsr role m) :
    ∀ (blocks : List (List Nibble)) (lfsr : BitVec 64) (auth : Block),
      skaeadAdPass x blocks lfsr auth = (blocks.foldl (skaeadAdLoopBody e) (lfsr, auth)).2
  | [], _, _ => rfl
  | b :: rest, lfsr, auth => by
    have e2 := fun l m => he l .adFull m
    have e3 := fun l m => he l .adPartial m
    simp only [roleIndex] at e2 e3
    rw [List.foldl_cons, skaeadAdPass, skaeadAdPass_eq_loop x e he rest]
    by_cases h : b.length = 32 <;> simp [skaeadAdLoopBody, blk, lfsrNext, h, e2, e3]

end Sys2Proof.Machine
end

