-- ==== Sys2Proof/Laws/PerInstr.lean ====
section
/-! SUPPORT. A statement for all instructions, one lemma per constructor: the word of a well-formed
instruction selects the instruction's own row of the opcode map (30_encoding.md R310). -/

namespace Sys2Proof.Laws.EncodeSelectsRow

open Sys2Proof

/-- The encoding of a well-formed instruction selects its row: `encode i & mask = match`
(30_encoding.md R310). -/
def Statement (i : Instr) : Prop := i.wf = true → i.row.selects (encode i) = true

/-- A SKINNY word selects the row of its OP whatever BS, Z and ROUNDS hold (30_encoding.md R310). -/
theorem skinny_word_selects (r : OpRow) (op : BitVec 8) (hm : r.mask = 0xFFF800FF#32)
    (hp : r.pattern = 0#24 ++ op) (rounds : BitVec 8) (z : BitVec 2) (bs : BitVec 1) :
    r.selects (commandWord op rounds z bs 0#2) = true := by
  rw [OpRow.selects, hm, hp, beq_iff_eq]
  apply BitVec.eq_of_getLsbD_eq
  intro i hi
  simp only [commandWord, BitVec.getLsbD_and, BitVec.getLsbD_append]
  interval_cases i <;> simp

theorem nop : Statement .nop := fun _ => by decide
theorem clear : Statement .clear := fun _ => by decide
theorem gift64Enc : Statement .gift64Enc := fun _ => by decide
theorem gift64Dec : Statement .gift64Dec := fun _ => by decide
theorem gift128Enc : Statement .gift128Enc := fun _ => by decide
theorem gift128Dec : Statement .gift128Dec := fun _ => by decide
theorem gift128bsEnc : Statement .gift128bsEnc := fun _ => by decide
theorem gift128bsDec : Statement .gift128bsDec := fun _ => by decide
theorem skinnyEnc (n : BlockSize) (z rounds : Nat) : Statement (.skinnyEnc n z rounds) :=
  fun _ => skinny_word_selects rowSkinnyEnc 0x20#8 rfl rfl _ _ _
theorem skinnyDec (n : BlockSize) (z rounds : Nat) : Statement (.skinnyDec n z rounds) :=
  fun _ => skinny_word_selects rowSkinnyDec 0x21#8 rfl rfl _ _ _
theorem cofbEnc : Statement .cofbEnc := fun _ => by decide
theorem cofbDec : Statement .cofbDec := fun _ => by decide
theorem skaeadEnc (member : Member) : Statement (.skaeadEnc member) :=
  fun _ => by cases member <;> decide
theorem skaeadDec (member : Member) : Statement (.skaeadDec member) :=
  fun _ => by cases member <;> decide

end Sys2Proof.Laws.EncodeSelectsRow
end

