-- ==== Sys2Proof/Tests/Slice0.lean ====
section
/-! SUPPORT. Tests on fixed values and witnesses of the statements' hypotheses. A value expected of a
cipher is a vector of 95_test_vectors.md, named in the test's comment; a command word is written out
from 30_encoding.md R300 and R310. -/

namespace Sys2Proof.Tests

open Sys2Proof Sys2Proof.Machine

/-! ### Well-formedness refuses what no word can carry (30_encoding.md R300) -/

theorem test_wf_refuses_z_4 : (Instr.skinnyEnc .n64 4 0).wf = false := by decide
theorem test_wf_refuses_z_4_dec : (Instr.skinnyDec .n128 4 0).wf = false := by decide
theorem test_wf_refuses_rounds_256 : (Instr.skinnyEnc .n128 3 256).wf = false := by decide
theorem test_wf_refuses_rounds_256_dec : (Instr.skinnyDec .n64 1 256).wf = false := by decide
theorem test_wf_accepts_field_limits :
    (Instr.skinnyEnc .n128 3 255).wf = true ∧ (Instr.skinnyDec .n64 0 0).wf = true := by decide

/-! ### Decoding, one word per constructor, its bits from the fields of R300 -/

theorem test_decode_nop : decode 0x00000000#32 = .ok .nop := by decide
theorem test_decode_clear : decode 0x00000001#32 = .ok .clear := by decide
theorem test_decode_gift64Enc : decode 0x00000010#32 = .ok .gift64Enc := by decide
theorem test_decode_gift64Dec : decode 0x00000011#32 = .ok .gift64Dec := by decide
theorem test_decode_gift128Enc : decode 0x00000012#32 = .ok .gift128Enc := by decide
theorem test_decode_gift128Dec : decode 0x00000013#32 = .ok .gift128Dec := by decide
theorem test_decode_gift128bsEnc : decode 0x00000014#32 = .ok .gift128bsEnc := by decide
theorem test_decode_gift128bsDec : decode 0x00000015#32 = .ok .gift128bsDec := by decide
/-- bits 31..22 = 0, MEMBER = 0, bit 19 = 0, BS = 0, Z = 10, ROUNDS = 00001010, OP = 0x20. -/
theorem test_decode_skinnyEnc :
    decode 0b00000000000000100000101000100000#32 = .ok (.skinnyEnc .n64 2 10) := by decide
/-- V4.22: `SKINNY.DEC n=128, z=3, rounds=255`. -/
theorem test_decode_skinnyDec : decode 0x0007FF21#32 = .ok (.skinnyDec .n128 3 255) := by decide
theorem test_decode_cofbEnc : decode 0x00000030#32 = .ok .cofbEnc := by decide
theorem test_decode_cofbDec : decode 0x00000031#32 = .ok .cofbDec := by decide
/-- MEMBER = 01 at bits 21..20. -/
theorem test_decode_skaeadEnc :
    decode 0b00000000000100000000000001000000#32 = .ok (.skaeadEnc .m2) := by decide
theorem test_decode_skaeadDec : decode 0x00200041#32 = .ok (.skaeadDec .m3) := by decide

/-- V8.3 to V8.6 and V8.8 to V8.10: illegal words, rejected by name. -/
theorem test_decode_illegal_words :
    decode 0x00000002#32 = .error (.unknownOp 0x02#8) ∧
    decode 0x000000FF#32 = .error (.unknownOp 0xFF#8) ∧
    decode 0x00000110#32 = .error .unusedField ∧
    decode 0x80000010#32 = .error .reservedBit ∧
    decode 0x000C0020#32 = .error .reservedBit ∧
    decode 0x00100030#32 = .error .unusedField ∧
    decode 0x00010040#32 = .error .unusedField := by decide

theorem test_decodeTableWord_drops_bits_above :
    decodeTableWord 32 0x100000010 = some .gift64Enc ∧ decodeTableWord 32 0x02 = none := by decide

/-- The assembler examples of 30_encoding.md R341. -/
theorem test_assembler_examples :
    assembler (.skinnyDec .n64 2 10) = "SKINNY.DEC n=64, z=2, rounds=10" ∧
    assembler (.skaeadEnc .m3) = "SKAEAD.ENC member=M3" := by decide +kernel

/-! ### Helpers -/

/-- DOUT of a next state. -/
def doutOf (o : Host.Outcome State Fault Refusal) : Option (Vector Word 4) :=
  match o with
  | .next t => some t.dout
  | .fault _ => none
  | .refused _ => none

/-- STATUS of a next state. -/
def statusOf (o : Host.Outcome State Fault Refusal) : Option Word :=
  match o with
  | .next t => some (statusWord t)
  | .fault _ => none
  | .refused _ => none

/-- TAG and the first `count` bytes of BUF at `a` of a next state. -/
def tagAndBytesOf (o : Host.Outcome State Fault Refusal) (a count : Nat) :
    Option (Vector Word 4 × List Byte) :=
  match o with
  | .next t => some (t.tag, (List.range count).map fun i => bufByte t (a + i))
  | .fault _ => none
  | .refused _ => none

/-- STATUS and the first `count` bytes of BUF at `a` of a next state. -/
def statusAndBytesOf (o : Host.Outcome State Fault Refusal) (a count : Nat) :
    Option (Word × List Byte) :=
  match o with
  | .next t => some (statusWord t, (List.range count).map fun i => bufByte t (a + i))
  | .fault _ => none
  | .refused _ => none

/-- KEY0..KEY3, the rest 0. -/
def keyOf (k0 k1 k2 k3 : Word) : Vector Word 12 :=
  #v[k0, k1, k2, k3, 0#32, 0#32, 0#32, 0#32, 0#32, 0#32, 0#32, 0#32]

/-- The reset state with a key and a block. -/
def blockState (key : Vector Word 12) (din : Vector Word 4) : State :=
  { State.reset with key := key, din := din }

/-- The four words of K16 (95_test_vectors.md). -/
def k16 : Vector Word 4 := #v[0x00010203#32, 0x04050607#32, 0x08090A0B#32, 0x0C0D0E0F#32]

/-- K = N = K16, with A = 0xABC at 0x00 and `msg` at 0x10, output at 0x20 (V5.5, V6.17). -/
def aeadState (msg : List Nibble) (tag : Vector Word 4) : State :=
  nibWrite 0x10 msg (nibWrite 0x00 [0xA#4, 0xB#4, 0xC#4]
    { State.reset with
      key := keyOf k16[0] k16[1] k16[2] k16[3]
      nonce := k16
      tag := tag
      adLen := 3#32
      msgPtr := 0x10#32
      msgLen := 5#32
      outPtr := 0x20#32 })

/-- A machine with a command word in flight, as acceptance leaves it. -/
def busyState (w : Word) : State := accept w State.reset

/-! ### The commands -/

/-- V8.1: NOP ends with STATUS = 2. -/
theorem test_nop_status : statusOf (exec .nop State.reset) = some 0x00000002#32 := by
  decide

/-- 46_system.md R1002: CLEAR clears WERR and the written byte, and keeps IRQ_EN. -/
theorem test_clear_byte :
    (statusAndBytesOf (exec .clear (bufWrite 60 [0xFF#8] { State.reset with
      params := { Params.default with bufBytes := 64 }, werr := true })) 60 1) =
      some (0x00000002#32, [0x00#8]) := by decide +kernel

/-- V2.3. -/
theorem test_gift64Enc_vector :
    doutOf (exec .gift64Enc (blockState
      (keyOf 0xBD91731E#32 0xB6BC2713#32 0xA1F9F6FF#32 0xC75044E7#32)
      #v[0xC450C772#32, 0x7A9B8A7D#32, 0xFFFFFFFF#32, 0xFFFFFFFF#32])) =
      some #v[0xE3272885#32, 0xFA94BA8B#32, 0#32, 0#32] := by decide +kernel

/-- V2.8. -/
theorem test_gift64Dec_vector :
    doutOf (exec .gift64Dec (blockState
      (keyOf 0xFEDCBA98#32 0x76543210#32 0xFEDCBA98#32 0x76543210#32)
      #v[0xC1B71F66#32, 0x160FF587#32, 0#32, 0#32])) =
      some #v[0xFEDCBA98#32, 0x76543210#32, 0#32, 0#32] := by decide +kernel

/-- V2.6. -/
theorem test_gift128Enc_vector :
    doutOf (exec .gift128Enc (blockState
      (keyOf 0xD0F5C59A#32 0x7700D3E7#32 0x99028FA9#32 0xF90AD837#32)
      #v[0xE39C141F#32, 0xA57DBA43#32, 0xF08A85B6#32, 0xA91F86C1#32])) =
      some #v[0x13EDE67C#32, 0xBDCC3DBF#32, 0x400A62D6#32, 0x977265EA#32] := by decide +kernel

/-- V2.11. -/
theorem test_gift128Dec_vector :
    doutOf (exec .gift128Dec (blockState
      (keyOf 0xFEDCBA98#32 0x76543210#32 0xFEDCBA98#32 0x76543210#32)
      #v[0x8422241A#32, 0x6DBF5A93#32, 0x46AF4684#32, 0x09EE0152#32])) =
      some #v[0xFEDCBA98#32, 0x76543210#32, 0xFEDCBA98#32, 0x76543210#32] := by decide +kernel

/-- V3.4, under the default EQUIV. -/
theorem test_gift128bsEnc_equiv :
    doutOf (exec .gift128bsEnc (blockState (keyOf k16[0] k16[1] k16[2] k16[3]) k16)) =
      some #v[0x22B423B5#32, 0xA8B07215#32, 0xE6DAF957#32, 0xE3BA8DC9#32] := by decide +kernel

/-- V3.3, under SLICED. -/
theorem test_gift128bsEnc_sliced :
    doutOf (exec .gift128bsEnc { blockState (keyOf k16[0] k16[1] k16[2] k16[3]) k16 with
      params := { Params.default with bsLoading := .sliced } }) =
      some #v[0xA94AF7F9#32, 0xBA181DF9#32, 0xB2B00EB7#32, 0xDBFA93DF#32] := by decide +kernel

/-- V3.5. -/
theorem test_gift128bsDec_equiv :
    doutOf (exec .gift128bsDec (blockState (keyOf k16[0] k16[1] k16[2] k16[3])
      #v[0x22B423B5#32, 0xA8B07215#32, 0xE6DAF957#32, 0xE3BA8DC9#32])) = some k16 := by
  decide +kernel

/-- V4.3: SKINNY-64-192, its standard 40 rounds. -/
theorem test_skinnyEnc_64_192 :
    doutOf (exec (.skinnyEnc .n64 3 0) (blockState
      #v[0xED00C85B#32, 0x120D6861#32, 0x8753E24B#32, 0xFD908F60#32, 0xB2DBB41B#32, 0x422DFCD0#32,
        0#32, 0#32, 0#32, 0#32, 0#32, 0#32]
      #v[0x530C61D3#32, 0x5E8663C3#32, 0#32, 0#32])) =
      some #v[0xDD2CF1A8#32, 0xF330303C#32, 0#32, 0#32] := by decide +kernel

/-- V4.11: SKINNY-128-256, its standard 48 rounds. -/
theorem test_skinnyDec_128_256 :
    doutOf (exec (.skinnyDec .n128 2 0) (blockState
      #v[0x009CEC81#32, 0x605D4AC1#32, 0xD2AE9E30#32, 0x85D7A1F3#32, 0x1AC123EB#32, 0xFC00FDDC#32,
        0xF01046CE#32, 0xEDDFCAB3#32, 0#32, 0#32, 0#32, 0#32]
      #v[0xB731D98A#32, 0x4BDE147A#32, 0x7ED4A6F1#32, 0x6B9B587F#32])) =
      some #v[0x3A0C4776#32, 0x7A26A68D#32, 0xD382A695#32, 0xE7022E25#32] := by decide +kernel

/-- V4.24: decrypting with the wrong round count does not invert. -/
theorem test_skinnyDec_rounds_31 :
    doutOf (exec (.skinnyDec .n64 1 31) (blockState (keyOf 0xF5269826#32 0xFC681238#32 0#32 0#32)
      #v[0xBB39DFB2#32, 0x429B8AC7#32, 0#32, 0#32])) =
      some #v[0xF51F6A33#32, 0x704CE10C#32, 0#32, 0#32] := by decide +kernel

/-- V5.5: the tag and the ciphertext 0xCE00C, with 0 in the low nibble after its odd length. -/
theorem test_cofbEnc_vector :
    tagAndBytesOf (exec .cofbEnc (aeadState [0x1#4, 0x2#4, 0x3#4, 0x4#4, 0x5#4] zero4)) 0x20 3 =
      some (#v[0x3C30CB04#32, 0x39C9826E#32, 0xA9920857#32, 0xD4AC6E8F#32],
        [0xCE#8, 0x00#8, 0xC0#8]) := by decide +kernel

/-- V5.19: the plaintext 0x12345. -/
theorem test_cofbDec_vector :
    statusAndBytesOf (exec .cofbDec (aeadState [0xC#4, 0xE#4, 0x0#4, 0x0#4, 0xC#4]
      #v[0x3C30CB04#32, 0x39C9826E#32, 0xA9920857#32, 0xD4AC6E8F#32])) 0x20 3 =
      some (0x00000002#32, [0x12#8, 0x34#8, 0x50#8]) := by decide +kernel

/-- V8.18: a wrong tag ends with AUTH. -/
theorem test_cofbDec_wrong_tag : statusOf (exec .cofbDec State.reset) = some 0x00000042#32 := by
  decide +kernel

/-- V6.20: M4, a 64-bit tag. -/
theorem test_skaeadEnc_m4_vector :
    tagAndBytesOf (exec (.skaeadEnc .m4) (aeadState [0x1#4, 0x2#4, 0x3#4, 0x4#4, 0x5#4] zero4))
      0x20 3 =
      some (#v[0x72F991E7#32, 0xE15DEFCF#32, 0#32, 0#32], [0x9F#8, 0x6C#8, 0xF0#8]) := by
  decide +kernel

/-- V6.3 and R931's example: M3 with the tag in TAG0 and TAG1, whatever TAG2 and TAG3 hold. -/
theorem test_skaeadDec_m3_empty :
    statusOf (exec (.skaeadDec .m3) { State.reset with
      key := keyOf k16[0] k16[1] k16[2] k16[3]
      nonce := k16
      tag := #v[0x62B08C05#32, 0x57EDCC94#32, 0xFFFFFFFF#32, 0xFFFFFFFF#32] }) =
      some 0x00000002#32 := by decide +kernel

/-- V8.19: a wrong tag ends with AUTH. -/
theorem test_skaeadDec_wrong_tag :
    statusOf (exec (.skaeadDec .m4) State.reset) = some 0x00000042#32 := by decide +kernel

/-! ### Tables -/

/-- The first rows of P_64 (41_gift.md R507) and of P_128 (R508). -/
theorem test_giftPerm_rows :
    (List.range 16).map (giftPerm 64) = [0, 17, 34, 51, 48, 1, 18, 35, 32, 49, 2, 19, 16, 33, 50, 3] ∧
    (List.range 16).map (giftPerm 128) =
      [0, 33, 66, 99, 96, 1, 34, 67, 64, 97, 2, 35, 32, 65, 98, 3] := by decide

/-- Rows of the inverse tables (41_gift.md R507, R508). -/
theorem test_giftPermInv_rows :
    (List.range 16).map (fun i => giftPermInv 64 (16 + i)) =
      [12, 1, 6, 11, 28, 17, 22, 27, 44, 33, 38, 43, 60, 49, 54, 59] ∧
    (List.range 16).map (fun i => giftPermInv 128 (16 + i)) =
      [64, 69, 74, 79, 80, 85, 90, 95, 96, 101, 106, 111, 112, 117, 122, 127] := by decide

/-- The table Q_1 (42_gift128_bitsliced.md R612), its first row. -/
theorem test_wordPerm_row :
    (List.range 16).map (wordPerm 1) = [8, 0, 24, 16, 9, 1, 25, 17, 10, 2, 26, 18, 11, 3, 27, 19] := by
  decide

/-- The LFSRs of TK2 and TK3 (95_test_vectors.md, components of section 4). -/
theorem test_skinny_lfsrs :
    skLfsr2 .n64 0x8#4 = 0x1#4 ∧ skLfsr2 .n128 0x20#8 = 0x41#8 ∧
    skLfsr3 .n64 0x8#4 = 0xC#4 ∧ skLfsr3 .n128 0x40#8 = 0xA0#8 := by decide

/-- byterev64 (40_primitives.md R441). -/
theorem test_byterev64 : byterev64 0x0000000000000001#64 = 0x0100000000000000#64 := by decide

/-! ### R631 of 42_gift128_bitsliced.md (assumption log 12) -/

/-- T(0) = 0, and Tinv moves the table-driven encryption of 0 under the key 0 (V3.1) to V3.2. -/
theorem test_sliced_zero_block :
    bsTranspose 0#128 = 0#128 ∧ giftEnc128 0#128 0#128 = 0xCD0BD738388AD3F668B15A36CEB6FF92#128 ∧
    bsTransposeInv 0xCD0BD738388AD3F668B15A36CEB6FF92#128 =
      0x5E8E3A2E1697A77DCC0B89DCD97A64EE#128 := by decide +kernel

/-- No engine at all meets both the equation of R631 and its last sentence read of ciphertexts. -/
theorem r631_equation_excludes_its_last_sentence (engine : Block → Block → Block)
    (equation : ∀ x k, engine x k = bsTransposeInv (giftEnc128 (bsTranspose x) k)) :
    ¬ ∀ x k, engine x k = giftEnc128 x k ↔ bsTranspose x = x := by
  intro sentence
  obtain ⟨hfix, henc, hinv⟩ := test_sliced_zero_block
  have hagree := (sentence 0#128 0#128).mpr hfix
  rw [equation, hfix, henc, hinv] at hagree
  exact absurd hagree (by decide)

/-! ### The bus and the range check -/

/-- V8.25: a write while BUSY is dropped with WERR, and a read of DIN0 returns 0. -/
theorem test_busy_access :
    statusWord (hostWrite 0x090#13 0#32 (busyState 0x10#32)) = 0x00000005#32 ∧
    hostRead { busyState 0x10#32 with din := k16 } 0x090#13 = 0#32 := by decide

/-- V8.23: offset bits 1 and 0 are ignored. -/
theorem test_window_alignment :
    hostRead (hostWrite 0x1003#13 0xDEADBEEF#32 State.reset) 0x1000#13 = 0xDEADBEEF#32 := by
  decide +kernel

/-- V8.11 to V8.16: the boundaries of the range check. -/
theorem test_range_check :
    regionOk 4096 0 8193 = false ∧ regionOk 4096 0 8192 = true ∧ regionOk 4096 4095 2 = true ∧
    regionOk 4096 4095 3 = false ∧ regionOk 4096 0xFFFFFFFF 0 = true ∧
    regionOk 4096 0xFFFFFFFF 2 = false := by decide

/-- A command placed for the next step runs in it: NOP completes, an illegal word ends with ILLEGAL
(V8.1, V8.3). -/
theorem test_step_runs_placed_word :
    statusOf (step (State.reset.withFetchWord 32 0)) = some 0x00000002#32 ∧
    statusOf (step (State.reset.withFetchWord 32 2)) = some 0x00000012#32 := by
  decide

/-! ### Witnesses: for each statement with hypotheses, a state and operands that meet them, each clause at
the limits of its range -/

theorem witness_DecodeEncodeAgree :
    (Instr.skinnyEnc .n128 3 255).wf = true ∧ (Instr.skaeadDec .m4).wf = true := by decide

theorem witness_DecodedWordIsItsEncoding :
    decode 0x0007FF21#32 = .ok (.skinnyDec .n128 3 255) ∧ decode 0x00000000#32 = .ok .nop := by decide

theorem witness_OpcodeRowsDoNotOverlap :
    rowSkinnyDec ∈ opRows ∧ rowSkinnyDec.selects 0x0007FF21#32 = true := by decide

/-- A legal word and an illegal one in flight. -/
theorem witness_IllegalExactlyWhenNoRow :
    (busyState 0x0007FF21#32).seq = .busy 0x0007FF21#32 ∧ (busyState 0x00000110#32).seq = .busy 0x00000110#32 ∧
    (∃ r ∈ opRows, r.selects 0x0007FF21#32 = true) ∧
    ∀ r ∈ opRows, r.selects 0x00000110#32 = false := by decide

theorem witness_StepRunsTheDecodedCommand :
    (busyState 0x0007FF21#32).seq = .busy 0x0007FF21#32 ∧
    decode 0x0007FF21#32 = .ok (.skinnyDec .n128 3 255) ∧ (Instr.skinnyDec .n128 3 255).wf = true ∧
    (busyState 0x0007FF21#32).schedule = [] ∧
    { busyState 0x0007FF21#32 with schedule := [.complete, .host] }.schedule =
      .complete :: [.host] := by decide

theorem witness_StepTakesTheScheduledTurn :
    { State.reset with schedule := [.host] }.schedule = .host :: [] ∧
    { State.reset with schedule := [.reset] }.schedule = .reset :: [] ∧
    { State.reset with schedule := [.complete] }.schedule = .complete :: [] ∧
    State.reset.schedule = [] ∧ State.reset.seq = .idle ∧ State.reset.program = [] := by decide

theorem witness_HostTurnIssuesTheNextTransaction :
    { State.reset with program := [.wr 0x1FFF#13 1#32] }.program = .wr 0x1FFF#13 1#32 :: [] ∧
    { State.reset with program := [.rd 0x000#13] }.program = .rd 0x000#13 :: [] ∧
    { busyState 0#32 with program := [.wait] }.program = .wait :: [] ∧
    (∃ w, { busyState 0#32 with program := [.wait] }.seq = .busy w) ∧
    { State.reset with program := [.wait] }.seq = .idle :=
  ⟨rfl, rfl, rfl, ⟨0#32, rfl⟩, rfl⟩

theorem witness_CmdWriteIsAccepted :
    State.reset.seq = .idle ∧ (0x004#13).toNat / 4 = 0x004 / 4 ∧ (0x007#13).toNat / 4 = 0x004 / 4 := by
  decide

/-- The offsets 0x000, 0x003 (ID), 0x004 (CMD), 0x00B (STATUS), 0x00F (IRQ_EN), 0x010 and 0x1FFF. -/
theorem witness_BusyAccessesAreWithheld :
    (busyState 0#32).seq = .busy 0#32 ∧
    (0x003#13).toNat / 4 = 0x000 / 4 ∧ (0x004#13).toNat / 4 = 0x004 / 4 ∧
    (0x00B#13).toNat / 4 = 0x008 / 4 ∧ (0x00F#13).toNat / 4 = 0x00C / 4 ∧
    0x010 / 4 ≤ (0x010#13).toNat / 4 ∧ 0x010 / 4 ≤ (0x1FFF#13).toNat / 4 ∧
    (0x007#13).toNat / 4 ≠ 0x008 / 4 ∧ (0x010#13).toNat / 4 ≠ 0x00C / 4 := by decide

theorem witness_StatusReadsAndClears :
    (0x008#13).toNat / 4 = 0x008 / 4 ∧ (0x00B#13).toNat / 4 = 0x008 / 4 := by decide

theorem witness_IrqEnHoldsTwoBits :
    (0x00C#13).toNat / 4 = 0x00C / 4 ∧ (0x00F#13).toNat / 4 = 0x00C / 4 := by decide

/-- KEY0 and KEY11 are read; a host that writes 0x03C or 0x070, or that reads KEY0, writes no KEY. -/
theorem witness_KeyIsNeverReadBack :
    (0x040 / 4 ≤ (0x040#13).toNat / 4 ∧ (0x06F#13).toNat / 4 < 0x070 / 4) ∧
    ((0x03C#13).toNat / 4 < 0x040 / 4 ∧ 0x070 / 4 ≤ (0x070#13).toNat / 4) ∧
    ∀ off v rest, { State.reset with program := [.rd 0x040#13] }.program = .wr off v :: rest →
      off.toNat / 4 < 0x040 / 4 ∨ 0x070 / 4 ≤ off.toNat / 4 :=
  ⟨by decide, by decide, fun _ _ _ h => by cases h⟩

/-- The first and the last register of each range: AD_PTR, OUT_PTR, NONCE0, DIN3, TAG0, TAG3, KEY0 and
KEY11; then each single register, and the first and the last of NONCE, DIN, DOUT and TAG. -/
theorem witness_RegisterWritesAreStored :
    State.reset.seq = .idle ∧
    0x010 / 4 ≤ (0x010#13).toNat / 4 ∧ (0x023#13).toNat / 4 ≤ 0x020 / 4 ∧
    0x080 / 4 ≤ (0x080#13).toNat / 4 ∧ (0x09F#13).toNat / 4 < 0x0A0 / 4 ∧
    0x0B0 / 4 ≤ (0x0B0#13).toNat / 4 ∧ (0x0BF#13).toNat / 4 < 0x0C0 / 4 ∧
    (0x020#13).toNat / 4 ≠ (0x024#13).toNat / 4 ∧
    (0x040#13).toNat / 4 = 0x040 / 4 + (0 : Fin 12).val ∧
    (0x06C#13).toNat / 4 = 0x040 / 4 + (11 : Fin 12).val ∧
    (0x007#13).toNat / 4 = 0x004 / 4 ∧ (0x010#13).toNat / 4 = 0x010 / 4 ∧
    (0x017#13).toNat / 4 = 0x014 / 4 ∧ (0x018#13).toNat / 4 = 0x018 / 4 ∧
    (0x01C#13).toNat / 4 = 0x01C / 4 ∧ (0x023#13).toNat / 4 = 0x020 / 4 ∧
    (0x080#13).toNat / 4 = 0x080 / 4 + (0 : Fin 4).val ∧
    (0x08F#13).toNat / 4 = 0x080 / 4 + (3 : Fin 4).val ∧
    (0x090#13).toNat / 4 = 0x090 / 4 + (0 : Fin 4).val ∧
    (0x09F#13).toNat / 4 = 0x090 / 4 + (3 : Fin 4).val ∧
    (0x0A0#13).toNat / 4 = 0x0A0 / 4 + (0 : Fin 4).val ∧
    (0x0AF#13).toNat / 4 = 0x0A0 / 4 + (3 : Fin 4).val ∧
    (0x0B0#13).toNat / 4 = 0x0B0 / 4 + (0 : Fin 4).val ∧
    (0x0BF#13).toNat / 4 = 0x0B0 / 4 + (3 : Fin 4).val := by decide

theorem witness_IdAndReservedOffsets :
    State.reset.seq = .idle ∧ (0x003#13).toNat / 4 = 0x000 / 4 ∧
    0x024 / 4 ≤ (0x024#13).toNat / 4 ∧ (0x03F#13).toNat / 4 ≤ 0x03C / 4 ∧
    0x070 / 4 ≤ (0x070#13).toNat / 4 ∧ (0x07F#13).toNat / 4 ≤ 0x07C / 4 ∧
    0x0C0 / 4 ≤ (0x0C0#13).toNat / 4 ∧ (0x0FFF#13).toNat / 4 ≤ 0x0FFC / 4 := by decide

/-- The first and the last word of a 4096-byte BUF, and of a 64-byte BUF the last word within it and the
first beyond it. -/
theorem witness_BufWindowIsBigEndian :
    State.reset.seq = .idle ∧ (0x1000#13).toNat / 4 = 0x1000 / 4 + 0 ∧
    (0x1FFF#13).toNat / 4 = 0x1000 / 4 + 1023 ∧ 4 * 1023 + 3 < State.reset.params.bufBytes ∧
    (0x103C#13).toNat / 4 = 0x1000 / 4 + 15 ∧ 4 * 15 + 3 < 64 ∧
    (0x1040#13).toNat / 4 = 0x1000 / 4 + 16 ∧
    { State.reset with params := { Params.default with bufBytes := 64 } }.params.bufBytes ≤ 4 * 16 + 3 :=
  by decide

theorem witness_ResetStateHoldsTheResetValues :
    (0x000#13).toNat / 4 < 0x1000 / 4 ∧ (0x0FFF#13).toNat / 4 < 0x1000 / 4 := by decide

/-- Reset with a command in flight. -/
theorem witness_ResetEventAbandonsTheCommand :
    { busyState 0x10#32 with schedule := [.reset, .host] }.schedule = .reset :: [.host] ∧
    { busyState 0x10#32 with schedule := [.reset, .host] }.seq = .busy 0x10#32 := by decide

theorem witness_EveryCommandCompletesOnce :
    (busyState 0#32).seq = .busy 0#32 ∧ (busyState 0xFFFFFFFF#32).seq = .busy 0xFFFFFFFF#32 := by decide

/-- A completion with CONFIG, one with PRECOND and one with AUTH. -/
theorem witness_ErrorCodesAndTheirCauses :
    (busyState 0x00000020#32).seq = .busy 0x00000020#32 ∧
    statusOf (completeTurn (busyState 0x00000020#32)) = some 0x00000022#32 ∧
    statusOf (completeTurn { busyState 0x00300041#32 with adLen := 8193#32 }) = some 0x00000032#32 ∧
    statusOf (completeTurn (busyState 0x00000031#32)) = some 0x00000042#32 := by decide +kernel

theorem witness_CommandsWriteOnlyTheirOutputs :
    exec .nop State.reset = .next { State.reset with err := .ok, done := true, seq := .idle } ∧
    (Instr.nop ≠ .clear ∧ Instr.nop ≠ .cofbEnc ∧ ∀ m, Instr.nop ≠ .skaeadEnc m) ∧
    exec (.skinnyEnc .n64 0 0) State.reset =
      .next { State.reset with err := .config, done := true, seq := .idle } ∧
    (∃ t, exec .clear State.reset = .next t) ∧ (∃ t, exec (.skaeadEnc .m4) State.reset = .next t) ∧
    ¬ inNibRegion State.reset.outPtr.toNat State.reset.msgLen.toNat 0 :=
  ⟨rfl, ⟨by decide, by decide, fun _ h => by cases h⟩, rfl, ⟨_, rfl⟩, ⟨_, rfl⟩,
    by unfold inNibRegion; decide⟩

theorem witness_EveryStepKeepsTheStateWellFormed :
    Inv State.reset = true ∧ Inv (busyState 0x10#32) = true := by decide

theorem witness_HostCannotDisturbARunningCommand :
    { busyState 0x10#32 with program := [.wr 0x090#13 1#32, .rd 0x0A0#13] }.seq = .busy 0x10#32 := rfl

theorem witness_CommandInFlightCompletes :
    { busyState 0x10#32 with schedule := [.host, .complete] }.seq = .busy 0x10#32 ∧
    Turn.reset ∉ { busyState 0x10#32 with schedule := [.host, .complete] }.schedule ∧
    Turn.reset ∉ (busyState 0x10#32).schedule := by decide

theorem witness_NopHasNoEffect :
    fieldOp 0x00000100#32 = 0x00#8 ∧ (0x00000100#32 : Word) ≠ 0x00000000#32 ∧
    exec .nop State.reset = .next { State.reset with err := .ok, done := true, seq := .idle } ∧
    State.reset.werr = false := ⟨by decide, by decide, rfl, rfl⟩

/-- The last byte within BUF and the first beyond it. -/
theorem witness_ClearZeroisesEverything :
    4095 < State.reset.params.bufBytes ∧ State.reset.params.bufBytes ≤ 4096 ∧
    State.reset.buf.wf State.reset.params.bufBytes = true := by decide

theorem witness_GiftPermBitsMovesEachBit : (0 < 64 ∧ 63 < 64) ∧ (0 < 128 ∧ 127 < 128) := by decide

theorem witness_GiftRoundKeysBitByBit : 7 < 8 ∧ 5 < 6 ∧ 15 < 16 ∧ 31 < 32 := by decide

theorem witness_GiftRunsItsRoundsInOrder : 15 < 16 ∧ 31 < 32 := by decide

theorem witness_SlicedLoadingIsATransposition : 127 < 128 := by decide

theorem witness_SkinnyRunsItsRoundsInOrder :
    15 < 16 ∧ 3 < 4 ∧ 2 ≤ 2 ∧ 3 ≤ 3 ∧
    [9, 15, 8, 13, 10, 14, 12, 11, 0, 1, 2, 3, 4, 5, 6, 7][0]? = some 9 ∧
    [9, 15, 8, 13, 10, 14, 12, 11, 0, 1, 2, 3, 4, 5, 6, 7][15]? = some 7 := by decide

theorem witness_Gift64CommandsWriteTheirResult :
    fieldOp 0x00000110#32 = 0x10#8 ∧ (0x00000110#32 : Word) ≠ 0x00000010#32 := by decide

theorem witness_Gift128CommandsWriteTheirResult :
    State.reset.params.bsLoading = .equiv ∧ ∃ u, exec .gift128bsEnc State.reset = .next u :=
  ⟨rfl, _, rfl⟩

/-- z = 1 and z = 3 at 64 bits: key bits 64 and 192 are the first that are not read. -/
theorem witness_SkinnyIgnoresUnusedKeyBits :
    (0 : BitVec 384) >>> (384 - 1 * blockBits .n64) =
      (BitVec.twoPow 384 319) >>> (384 - 1 * blockBits .n64) ∧
    (0 : BitVec 384) >>> (384 - 3 * blockBits .n64) =
      (BitVec.twoPow 384 191) >>> (384 - 3 * blockBits .n64) := by decide +kernel

theorem witness_SkinnyCommandsWriteTheirResult :
    (0x0007FF20 &&& 0xFFF800FF#32 : Word) = 0x00000020#32 ∧
    (0x00000021 &&& 0xFFF800FF#32 : Word) = 0x00000021#32 ∧
    fieldOp 0x00080020#32 = 0x20#8 ∧ (0x00080020#32).getLsbD 19 = true ∧
    fieldOp 0x00400021#32 = 0x21#8 ∧ (0x00400021#32).extractLsb' 22 10 ≠ 0#10 := by decide

/-- Strings of 1 and of 32 nibbles, whose last blocks are partial and full. -/
theorem witness_SplitCutsIntoBlocks :
    [0xA#4] ≠ ([] : List Nibble) ∧ [0xA#4] ∈ (split [0xA#4]).getLast? ∧
    List.replicate 32 0xA#4 ∈ (split (List.replicate 32 0xA#4)).getLast? ∧
    List.replicate 32 0xA#4 ∈ (split (List.replicate 33 0xA#4)).dropLast ∧ 31 < 32 ∧
    (List.replicate 32 0xA#4).length = 32 ∧ (List.replicate 31 0xA#4).length < 32 ∧
    ([] : List Nibble).length < 32 := by decide

theorem witness_NibbleStringsInBuf :
    0 < 1 ∧ 2 < 3 ∧ [0xA#4, 0xB#4, 0xC#4].length % 2 = 1 ∧ (0x0F < 0x10 ∧ 0x10 + (3 + 1) / 2 ≤ 0x12) := by
  decide

theorem witness_CofbMaskSchedule :
    [] ∈ (split []).getLast? ∧ List.replicate 32 0xA#4 ∈ (split (List.replicate 64 0xA#4)).getLast? := by
  decide

/-- The message region (4091, 9) ends at byte 4095, and the region (4091, 11) one byte beyond BUF. -/
theorem witness_CofbEncryptCommand :
    RegionsFit { State.reset with msgPtr := 4091#32, msgLen := 9#32, outPtr := 4091#32 } ∧
    ¬ RegionsFit { State.reset with msgPtr := 4091#32, msgLen := 11#32, outPtr := 4091#32 } := by
  unfold RegionsFit regionFits
  decide

/-- A decryption with an empty message, under the key and the nonce K16, and the given tag. -/
def emptyState (tag : Vector Word 4) : State :=
  { State.reset with key := keyOf k16[0] k16[1] k16[2] k16[3], nonce := k16, tag := tag }

/-- No associated data and no message are read from the empty state. -/
theorem emptyState_reads (tag : Vector Word 4) : RegionsFit (emptyState tag) ∧
    nibRead (emptyState tag) (emptyState tag).adPtr.toNat (emptyState tag).adLen.toNat = [] ∧
    nibRead (emptyState tag) (emptyState tag).msgPtr.toNat (emptyState tag).msgLen.toNat = [] :=
  ⟨⟨.inl rfl, .inl rfl, .inl rfl⟩, rfl, rfl⟩

/-- V5.1's tag is the one that is computed, under EQUIV, so the tag 0 is a wrong one. -/
theorem witness_CofbDecryptCommand :
    (cofbDecrypt .equiv (k16[0] ++ k16[1] ++ k16[2] ++ k16[3])
      (k16[0] ++ k16[1] ++ k16[2] ++ k16[3]) [] []).2 = 0x994AB1832379F7BB7AD1DC7E35A7F470#128 ∧
    (0x994AB1832379F7BB7AD1DC7E35A7F470#128 : Block) ≠ 0#128 ∧ ∀ tag, RegionsFit (emptyState tag) :=
  ⟨by decide +kernel, by decide, fun tag => (emptyState_reads tag).1⟩

/-- A message of 5 nibbles in place at 0x10, with associated data of 3 nibbles at 0x00. -/
def inPlaceState : State :=
  { aeadState [0x1#4, 0x2#4, 0x3#4, 0x4#4, 0x5#4] zero4 with outPtr := 0x10#32 }

theorem witness_CofbInPlaceRoundTrip : RegionsFit inPlaceState ∧ InPlace inPlaceState := by
  refine ⟨?_, rfl, fun a h h' => ?_⟩
  · unfold RegionsFit regionFits
    decide
  · have h1 : 0x10 ≤ a := h.1
    have h2 : a < 0 + (3 + 1) / 2 := h'.2
    omega

theorem witness_TagRulesDifferOnlyOnFullTails :
    tailOf ([] : List Nibble).length ≠ .fullTail ∧ tailOf 31 ≠ .fullTail ∧
    tailOf 33 ≠ .fullTail ∧ 0 < 1 ∧ tailOf (List.replicate 32 0xA#4).length = .fullTail := by decide

theorem witness_SkinnyAeadEncryptCommand :
    (0x00300040 &&& 0xFFCFFFFF#32 : Word) = 0x00000040#32 ∧
    fieldOp 0x00010040#32 = 0x40#8 ∧ (0x00010040#32).extractLsb' 8 12 ≠ 0#12 ∧
    fieldOp 0x00400040#32 = 0x40#8 ∧ (0x00400040#32).extractLsb' 22 10 ≠ 0#10 ∧
    RegionsFit { State.reset with adPtr := 4095#32, adLen := 2#32 } ∧
    ¬ RegionsFit { State.reset with adPtr := 4095#32, adLen := 3#32 } := by
  unfold RegionsFit regionFits
  decide

/-- V6.3's tag is the one that is computed, so the tag 0 is a wrong one. -/
theorem witness_SkinnyAeadDecryptCommand :
    (0x00300041 &&& 0xFFCFFFFF#32 : Word) = 0x00000041#32 ∧
    fieldOp 0x00010041#32 = 0x41#8 ∧ (0x00010041#32).extractLsb' 8 12 ≠ 0#12 ∧
    (skaeadDecrypt Params.default.memberBits .doc .m3 (k16[0] ++ k16[1] ++ k16[2] ++ k16[3])
      (k16[0] ++ k16[1] ++ k16[2] ++ k16[3]) [] []).2 = .short 0x62B08C0557EDCC94#64 ∧
    (0x62B08C0557EDCC94#64 : BitVec 64) ≠ 0#64 ∧ ∀ tag, RegionsFit (emptyState tag) :=
  ⟨by decide, by decide, by decide, by decide +kernel, by decide, fun tag => (emptyState_reads tag).1⟩

theorem witness_SkinnyAeadInPlaceRoundTrip : RegionsFit inPlaceState ∧ InPlace inPlaceState :=
  witness_CofbInPlaceRoundTrip

end Sys2Proof.Tests
end

section
/-! SUPPORT. The length of an AEAD output: splitting loses no nibble, and every block's output is as long
as the block (40_primitives.md R431, 44_gift_cofb.md R810, 45_skinny_aead.md R910). -/

namespace Sys2Proof.Machine

open Sys2Proof

theorem length_le_of_mem_splitBlocks {k : Nat} {v b : List Nibble} (h : b ∈ splitBlocks k v) :
    b.length ≤ 32 := by
  induction k generalizing v with
  | zero => simp [splitBlocks] at h
  | succ k ih =>
    rcases List.mem_cons.mp h with rfl | h
    · exact List.length_take_le 32 v
    · exact ih h

theorem flatten_splitBlocks {k : Nat} {v : List Nibble} (h : v.length ≤ 32 * k) :
    (splitBlocks k v).flatten = v := by
  induction k generalizing v with
  | zero => simp [splitBlocks, List.eq_nil_of_length_eq_zero (by omega : v.length = 0)]
  | succ k ih =>
    have hd : (v.drop 32).length ≤ 32 * k := by rw [List.length_drop]; omega
    rw [splitBlocks, List.flatten_cons, ih hd, List.take_append_drop]

theorem length_le_of_mem_split {v b : List Nibble} (h : b ∈ split v) : b.length ≤ 32 := by
  unfold split at h
  split at h
  · simp [List.mem_singleton.mp h]
  · exact length_le_of_mem_splitBlocks h

theorem flatten_split (v : List Nibble) : (split v).flatten = v := by
  unfold split
  split
  · simp [List.eq_nil_of_length_eq_zero ‹_›]
  · exact flatten_splitBlocks (by omega)

theorem length_cofbMessagePass (e : Block → Block) (dir : Direction) (blocks : List (List Nibble))
    (y : Block) (delta : BitVec 64) (h : ∀ b ∈ blocks, b.length ≤ 32) :
    (cofbMessagePass e dir blocks y delta).1.length = blocks.flatten.length := by
  induction blocks generalizing y delta with
  | nil => rfl
  | cons m rest ih =>
    obtain ⟨hm, hrest⟩ := List.forall_mem_cons.mp h
    cases rest with
    | nil => simp [cofbMessagePass, length_xorTrunc, hm]
    | cons m' rest =>
      rw [cofbMessagePass, List.flatten_cons, List.length_append, List.length_append,
        length_xorTrunc, ih _ _ hrest, Nat.min_eq_left hm]

theorem length_cofb (e : Block → Block) (dir : Direction) (nonce : Block) (ad msg : List Nibble) :
    (cofb e dir nonce ad msg).1.length = msg.length := by
  unfold cofb
  split
  · simp [*]
  · rw [length_cofbMessagePass _ _ _ _ _ fun _ => length_le_of_mem_split, flatten_split]

theorem length_skaeadBlockOut (x : SkaeadContext) (dir : Direction) (lfsr : BitVec 64)
    (m : List Nibble) (h : m.length ≤ 32) : (skaeadBlockOut x dir lfsr m).length = m.length := by
  unfold skaeadBlockOut
  split
  · cases dir <;> simp [*]
  · rw [length_xorTrunc, Nat.min_eq_left h]

theorem length_skaeadMessagePass (x : SkaeadContext) (dir : Direction) (blocks : List (List Nibble))
    (lfsr : BitVec 64) (sigma : Block) (lastPartial : Bool) (h : ∀ b ∈ blocks, b.length ≤ 32) :
    (skaeadMessagePass x dir blocks lfsr sigma lastPartial).out.length = blocks.flatten.length := by
  induction blocks generalizing lfsr sigma lastPartial with
  | nil => rfl
  | cons m rest ih =>
    obtain ⟨hm, hrest⟩ := List.forall_mem_cons.mp h
    simp [skaeadMessagePass, length_skaeadBlockOut _ _ _ _ hm, ih _ _ _ hrest]

theorem length_skaead (x : SkaeadContext) (rule : TagRule) (dir : Direction) (ad msg : List Nibble) :
    (skaead x rule dir ad msg).1.length = msg.length := by
  unfold skaead
  split
  · simp [*]
  · simp [length_skaeadMessagePass _ _ _ _ _ _ fun _ => length_le_of_mem_split, flatten_split]

theorem length_cofbEncrypt (loading : BsLoading) (k nonce : Block) (ad msg : List Nibble) :
    (cofbEncrypt loading k nonce ad msg).1.length = msg.length := length_cofb ..

theorem length_cofbDecrypt (loading : BsLoading) (k nonce : Block) (ad ct : List Nibble) :
    (cofbDecrypt loading k nonce ad ct).1.length = ct.length := length_cofb ..

theorem length_skaeadEncrypt (bits : MemberBits) (rule : TagRule) (member : Member)
    (k nonce : Block) (ad msg : List Nibble) :
    (skaeadEncrypt bits rule member k nonce ad msg).1.length = msg.length :=
  length_skaead _ rule _ ad msg

theorem length_skaeadDecrypt (bits : MemberBits) (rule : TagRule) (member : Member)
    (k nonce : Block) (ad ct : List Nibble) :
    (skaeadDecrypt bits rule member k nonce ad ct).1.length = ct.length :=
  length_skaead _ rule _ ad ct

theorem length_msgNibbles (s : State) : (msgNibbles s).length = s.msgLen.toNat :=
  length_nibRead _ _ _

end Sys2Proof.Machine
end

section
/-! SUPPORT. What a completed command can do, said once for all 14, and what each kind of command keeps
(10_state.md R162, 46_system.md R1012, 20_memory.md R223). -/

namespace Sys2Proof.Machine

open Sys2Proof

/-- The block-cipher commands, which write DOUT (10_state.md R133). -/
def writesDout : Instr → Bool
  | .gift64Enc => true
  | .gift64Dec => true
  | .gift128Enc => true
  | .gift128Dec => true
  | .gift128bsEnc => true
  | .gift128bsDec => true
  | .skinnyEnc _ _ _ => true
  | .skinnyDec _ _ _ => true
  | _ => false

/-- The AEAD encryptions, which write TAG (10_state.md R134). -/
def writesTag : Instr → Bool
  | .cofbEnc => true
  | .skaeadEnc _ => true
  | _ => false

/-- The AEAD commands, which write the output region (20_memory.md R223). -/
def writesBuf : Instr → Bool
  | .cofbEnc => true
  | .cofbDec => true
  | .skaeadEnc _ => true
  | .skaeadDec _ => true
  | _ => false

/-- `Ends s i t`: completing `i` can take `s` to `t`, by what `i` is allowed to write. -/
inductive Ends (s : State) : Instr → State → Prop
  | nop : Ends s .nop (complete .ok s)
  /-- An error changes STATUS only; CLEAR has none. -/
  | error (i : Instr) (code : ErrCode) (h : i ≠ .clear) (hcode : code ≠ .ok) :
    Ends s i (complete code s)
  | clear : Ends s .clear (complete .ok (clearData s))
  /-- A block-cipher command writes DOUT. -/
  | block (i : Instr) (d : Vector Word 4) (h : writesDout i = true) :
    Ends s i (complete .ok { s with dout := d })
  /-- An AEAD command whose regions fit writes an output as long as the message. -/
  | output (i : Instr) (v : List Nibble) (h : writesBuf i = true) (hfit : regionsOk s = true)
    (hlen : v.length = s.msgLen.toNat) : Ends s i (complete .ok (writeOutput v s))
  /-- An AEAD encryption writes the tag as well. -/
  | sealed (i : Instr) (v : List Nibble) (tag : Vector Word 4) (h : writesTag i = true)
    (hfit : regionsOk s = true) (hlen : v.length = s.msgLen.toNat) :
    Ends s i (complete .ok { writeOutput v s with tag := tag })

/-- Every command answers a next state, one of `Ends`. -/
theorem exec_ends (i : Instr) (s : State) : ∃ t, exec i s = .next t ∧ Ends s i t := by
  cases i with
  | nop => exact ⟨_, rfl, .nop⟩
  | clear => exact ⟨_, rfl, .clear⟩
  | gift64Enc | gift64Dec | gift128Enc | gift128Dec | gift128bsEnc | gift128bsDec =>
    exact ⟨_, rfl, .block _ _ rfl⟩
  | skinnyEnc n z rounds =>
    simp only [exec, execSkinnyEnc]
    split
    · exact ⟨_, rfl, .error _ _ nofun nofun⟩
    · rw [setSkinnyOutput_eq]
      exact ⟨_, rfl, .block _ _ rfl⟩
  | skinnyDec n z rounds =>
    simp only [exec, execSkinnyDec]
    split
    · exact ⟨_, rfl, .error _ _ nofun nofun⟩
    · rw [setSkinnyOutput_eq]
      exact ⟨_, rfl, .block _ _ rfl⟩
  | cofbEnc =>
    simp only [exec, execCofbEnc]
    split
    · exact ⟨_, rfl, .sealed _ _ _ rfl ‹_› ((length_cofbEncrypt ..).trans (length_msgNibbles s))⟩
    · exact ⟨_, rfl, .error _ _ nofun nofun⟩
  | cofbDec =>
    simp only [exec, execCofbDec]
    split
    · split
      · exact ⟨_, rfl, .output _ _ rfl ‹_› ((length_cofbDecrypt ..).trans (length_msgNibbles s))⟩
      · exact ⟨_, rfl, .error _ _ nofun nofun⟩
    · exact ⟨_, rfl, .error _ _ nofun nofun⟩
  | skaeadEnc member =>
    simp only [exec, execSkaeadEnc]
    split
    · rw [setSkaeadTag_eq]
      exact ⟨_, rfl, .sealed _ _ _ rfl ‹_› ((length_skaeadEncrypt ..).trans (length_msgNibbles s))⟩
    · exact ⟨_, rfl, .error _ _ nofun nofun⟩
  | skaeadDec member =>
    simp only [exec, execSkaeadDec]
    split
    · split
      · exact ⟨_, rfl, .output _ _ rfl ‹_› ((length_skaeadDecrypt ..).trans (length_msgNibbles s))⟩
      · exact ⟨_, rfl, .error _ _ nofun nofun⟩
    · exact ⟨_, rfl, .error _ _ nofun nofun⟩

/-- A command that answers `t` ended as `Ends` says. -/
theorem ends_of_exec {i : Instr} {s t : State} (h : exec i s = .next t) : Ends s i t := by
  obtain ⟨u, hu, hends⟩ := exec_ends i s
  rw [h] at hu
  cases hu
  exact hends

/-! ### What is kept -/

/-- No command changes the parameters, CMD, IRQ_EN or the model's own fields. -/
theorem Ends.keeps_control {s t : State} {i : Instr} (h : Ends s i t) :
    t.params = s.params ∧ t.cmd = s.cmd ∧ t.doneIe = s.doneIe ∧ t.werrIe = s.werrIe ∧
      t.resets = s.resets ∧ t.program = s.program ∧ t.schedule = s.schedule ∧ t.reads = s.reads := by
  cases h <;> exact ⟨rfl, rfl, rfl, rfl, rfl, rfl, rfl, rfl⟩

/-- Only CLEAR changes an operand register or WERR. -/
theorem Ends.keepsOperands {s t : State} {i : Instr} (h : Ends s i t) (hclear : i ≠ .clear) :
    KeepsOperands s t := by
  cases h with
  | clear => contradiction
  | _ => exact ⟨rfl, rfl, rfl, rfl, rfl, rfl, rfl, rfl, rfl, rfl, rfl, rfl, rfl, rfl, rfl, rfl, rfl⟩

/-- Only a block-cipher command or CLEAR changes DOUT. -/
theorem Ends.dout_eq {s t : State} {i : Instr} (h : Ends s i t) (hclear : i ≠ .clear)
    (hw : writesDout i = false) : t.dout = s.dout := by
  cases h with
  | clear => contradiction
  | block _ d hd => rw [hd] at hw; cases hw
  | _ => rfl

/-- Only an AEAD encryption or CLEAR changes TAG. -/
theorem Ends.tag_eq {s t : State} {i : Instr} (h : Ends s i t) (hclear : i ≠ .clear)
    (hw : writesTag i = false) : t.tag = s.tag := by
  cases h with
  | clear => contradiction
  | sealed _ v tag ht => rw [ht] at hw; cases hw
  | _ => rfl

/-- Writing an output of the message's length leaves every byte outside the output region. -/
theorem bufByte_writeOutput_outside {v : List Nibble} {s : State} {a : Nat}
    (hlen : v.length = s.msgLen.toNat) (ha : ¬ inNibRegion s.outPtr.toNat s.msgLen.toNat a) :
    bufByte (writeOutput v s) a = bufByte s a :=
  bufByte_nibWrite_outside _ _ _ _ (hlen ▸ ha)

/-- Only CLEAR changes a byte outside the output region. -/
theorem Ends.bufByte_outside {s t : State} {i : Instr} (h : Ends s i t) (hclear : i ≠ .clear) {a : Nat}
    (ha : ¬ inNibRegion s.outPtr.toNat s.msgLen.toNat a) : bufByte t a = bufByte s a := by
  cases h with
  | clear => contradiction
  | output _ v _ _ hlen => exact bufByte_writeOutput_outside hlen ha
  | sealed _ v tag _ _ hlen => exact bufByte_writeOutput_outside hlen ha
  | _ => rfl

theorem writesBuf_of_writesTag {i : Instr} (h : writesTag i = true) : writesBuf i = true := by
  cases i with
  | cofbEnc | skaeadEnc => rfl
  | _ => cases h

/-- Only an AEAD command or CLEAR changes BUF. -/
theorem Ends.keepsBuf {s t : State} {i : Instr} (h : Ends s i t) (hclear : i ≠ .clear)
    (hw : writesBuf i = false) : KeepsBuf s t := by
  cases h with
  | clear => contradiction
  | output _ v hb => rw [hb] at hw; cases hw
  | sealed _ v tag ht => rw [writesBuf_of_writesTag ht] at hw; cases hw
  | _ => exact fun _ => rfl

end Sys2Proof.Machine
end

section
/-! SUPPORT. The offsets, the host's accesses and turns (10_state.md R102, R145, R146; 30_encoding.md R340,
R342). -/

namespace Sys2Proof.Machine

open Sys2Proof

/-! ### Offsets and targets -/

/-- An offset below the BUF window names the register at its word index. -/
theorem targetOf_eq_registerAt {off : BitVec 13} {r : Nat} (h : off.toNat / 4 = r) (hr : r < 1024) :
    targetOf off = registerAt r := by
  simp only [targetOf, h]
  exact if_pos hr

theorem registerAt_key (i : Fin 12) : registerAt (0x040 / 4 + i.val) = .key i := by
  revert i; decide

theorem registerAt_nonce (i : Fin 4) : registerAt (0x080 / 4 + i.val) = .nonce i := by
  revert i; decide

theorem registerAt_din (i : Fin 4) : registerAt (0x090 / 4 + i.val) = .din i := by
  revert i; decide

theorem registerAt_dout (i : Fin 4) : registerAt (0x0A0 / 4 + i.val) = .dout i := by
  revert i; decide

theorem registerAt_tag (i : Fin 4) : registerAt (0x0B0 / 4 + i.val) = .tag i := by
  revert i; decide

/-- An offset at which no register stands is reserved (10_state.md R142). -/
theorem targetOf_reserved {off : BitVec 13}
    (h : (9 ≤ off.toNat / 4 ∧ off.toNat / 4 < 16) ∨ (28 ≤ off.toNat / 4 ∧ off.toNat / 4 < 32) ∨
      (48 ≤ off.toNat / 4 ∧ off.toNat / 4 < 1024)) : targetOf off = .reserved := by
  rcases targetOf_cases off with h' | h' | h' | h' | h' | h' | h' | h' | h' | ⟨i, h'⟩ | ⟨i, h'⟩ |
    ⟨i, h'⟩ | ⟨i, h'⟩ | ⟨i, h'⟩ | h' | ⟨w, h'⟩
  all_goals obtain ⟨_, ht⟩ := h'
  any_goals exact ht
  all_goals omega

/-- The word index at which a target stands; reserved offsets share none. -/
def Target.index : Target → Option Nat
  | .id => some 0
  | .cmd => some 1
  | .status => some 2
  | .irqEn => some 3
  | .adPtr => some 4
  | .adLen => some 5
  | .msgPtr => some 6
  | .msgLen => some 7
  | .outPtr => some 8
  | .key i => some (16 + i.val)
  | .nonce i => some (32 + i.val)
  | .din i => some (36 + i.val)
  | .dout i => some (40 + i.val)
  | .tag i => some (44 + i.val)
  | .reserved => none
  | .buf w => some (1024 + w)

/-- What an offset names tells its word index. -/
theorem div_four_of_targetOf {off : BitVec 13} {t : Target} {r : Nat} (ht : targetOf off = t)
    (hr : t.index = some r) : off.toNat / 4 = r := by
  rcases targetOf_cases off with h | h | h | h | h | h | h | h | h | ⟨i, h⟩ | ⟨i, h⟩ |
    ⟨i, h⟩ | ⟨i, h⟩ | ⟨i, h⟩ | h | ⟨w, h⟩
  all_goals
    obtain ⟨hi, ht'⟩ := h
    obtain rfl := ht'.symm.trans ht
    cases hr
  all_goals exact hi

/-! ### Accesses that the sequencer's state does not withhold -/

theorem hostRead_idle {s : State} (h : s.seq = .idle) (off : BitVec 13) :
    hostRead s off = readIdle s (targetOf off) := by
  simp [hostRead, not_isBusy_of_idle h]

theorem hostRead_of_readable {off : BitVec 13} (h : readableWhileBusy (targetOf off) = true)
    (s : State) : hostRead s off = readIdle s (targetOf off) := by
  simp [hostRead, h]

theorem hostWrite_of_writable {off : BitVec 13} (h : writableWhileBusy (targetOf off) = true)
    (v : Word) (s : State) : hostWrite off v s = writeIdle v s (targetOf off) := by
  simp [hostWrite, h]

/-- A read while IDLE returns the register at the offset's word index. -/
theorem hostRead_register {s : State} (hs : s.seq = .idle) {off : BitVec 13} {r : Nat}
    (h : off.toNat / 4 = r) (hr : r < 1024) : hostRead s off = readIdle s (registerAt r) := by
  rw [hostRead_idle hs, targetOf_eq_registerAt h hr]

/-- A write while IDLE reaches the register at the offset's word index. -/
theorem hostWrite_register {s : State} (hs : s.seq = .idle) {off : BitVec 13} {r : Nat}
    (h : off.toNat / 4 = r) (hr : r < 1024) (v : Word) :
    hostWrite off v s = writeIdle v s (registerAt r) := by
  rw [hostWrite_idle (not_isBusy_of_idle hs), targetOf_eq_registerAt h hr]

/-- A read of ID, CMD, STATUS or IRQ_EN returns its value, IDLE or BUSY (10_state.md R146). -/
theorem hostRead_control (s : State) {off : BitVec 13} {r : Nat} (h : off.toNat / 4 = r)
    (hr : r < 4) : hostRead s off = readIdle s (registerAt r) := by
  have ht : targetOf off = registerAt r := targetOf_eq_registerAt h (by omega)
  have hread : ∀ r < 4, readableWhileBusy (registerAt r) = true := by decide
  rw [hostRead_of_readable (by rw [ht, hread r hr]), ht]

/-! ### Accesses that are withheld while BUSY -/

theorem readableWhileBusy_eq_false {off : BitVec 13} (h : 4 ≤ off.toNat / 4) :
    readableWhileBusy (targetOf off) = false := by
  cases ht : targetOf off with
  | id | cmd | status | irqEn =>
    have := div_four_of_targetOf ht rfl
    omega
  | _ => rfl

theorem writableWhileBusy_eq_false {off : BitVec 13} (h2 : off.toNat / 4 ≠ 2)
    (h3 : off.toNat / 4 ≠ 3) : writableWhileBusy (targetOf off) = false := by
  cases ht : targetOf off with
  | status => exact absurd (div_four_of_targetOf ht rfl) h2
  | irqEn => exact absurd (div_four_of_targetOf ht rfl) h3
  | _ => rfl

/-- A dropped write sets WERR and does nothing else (10_state.md R145). -/
theorem hostWrite_dropped {s : State} (hs : isBusy s = true) {off : BitVec 13}
    (h2 : off.toNat / 4 ≠ 2) (h3 : off.toNat / 4 ≠ 3) (v : Word) :
    hostWrite off v s = dropWrite s := by
  simp [hostWrite, hs, writableWhileBusy_eq_false h2 h3]

/-- A withheld read returns 0 (10_state.md R146). -/
theorem hostRead_withheld {s : State} (hs : isBusy s = true) {off : BitVec 13}
    (h : 4 ≤ off.toNat / 4) : hostRead s off = 0#32 := by
  simp [hostRead, hs, readableWhileBusy_eq_false h]

/-! ### Turns of the host -/

theorem hostTurn_nil {s : State} (h : s.program = []) : hostTurn s = s := by
  simp [hostTurn, h]

theorem hostTurn_wr {s : State} {off : BitVec 13} {v : Word} {rest : List HostOp}
    (h : s.program = .wr off v :: rest) :
    hostTurn s = hostWrite off v { s with program := rest } := by
  simp [hostTurn, h]

theorem hostTurn_rd {s : State} {off : BitVec 13} {rest : List HostOp}
    (h : s.program = .rd off :: rest) : hostTurn s = returned (hostRead s off) rest s := by
  simp [hostTurn, h]

/-- A `wait` repeats its read of STATUS while BUSY reads 1. -/
theorem hostTurn_wait {s : State} {rest : List HostOp} (h : s.program = .wait :: rest) :
    hostTurn s = if isBusy s then s else returned (statusWord s) rest s := by
  have hread : hostRead s offStatus = statusWord s := hostRead_control s rfl (by decide)
  obtain ⟨hbusy, -⟩ := statusWord_bits s
  rw [← hbusy]
  simp [hostTurn, h, hread]

end Sys2Proof.Machine
end

section
/-! SUPPORT. Single registers: IRQ_EN, KEY, the operand registers, and their reset values (10_state.md R113,
R120-R134, R180). -/

namespace Sys2Proof.Machine

open Sys2Proof

/-- IRQ_EN reads the two stored bits of the word that was written (10_state.md R113). -/
theorem irqEnWord_writeIrqEn (v : Word) (s : State) :
    irqEnWord (writeIrqEn v s) = v &&& 0x00000003#32 := by
  apply BitVec.eq_of_getLsbD_eq
  intro i hi
  simp only [irqEnWord, writeIrqEn, BitVec.getLsbD_append, BitVec.getLsbD_and]
  rcases i with _ | _ | i
  · simp
  · simp
  · simp [BitVec.getLsbD_ofNat, Nat.testBit_succ]

/-! ### KEY -/

theorem readIdle_with_key (s : State) (k : Vector Word 12) (t : Target) :
    readIdle { s with key := k } t = readIdle s t := by
  cases t <;> rfl

/-- No value the host reads depends on KEY (10_state.md R130). -/
theorem hostRead_with_key (s : State) (k : Vector Word 12) (off : BitVec 13) :
    hostRead { s with key := k } off = hostRead s off := by
  simp only [hostRead, readIdle_with_key]
  rfl

/-- A write to anything but a KEY register neither reads nor changes KEY. -/
theorem writeIdle_with_key (v : Word) (s : State) (k : Vector Word 12) {t : Target}
    (h : ∀ i, t ≠ .key i) : writeIdle v { s with key := k } t = { writeIdle v s t with key := k } := by
  cases t with
  | key i => exact absurd rfl (h i)
  | buf w =>
    simp only [writeIdle]
    split <;> rfl
  | _ => rfl

theorem hostWrite_with_key (v : Word) (s : State) (k : Vector Word 12) {off : BitVec 13}
    (h : ∀ i, targetOf off ≠ .key i) :
    hostWrite off v { s with key := k } = { hostWrite off v s with key := k } := by
  simp only [hostWrite, writeIdle_with_key v s k h]
  have hbusy : isBusy { s with key := k } = isBusy s := rfl
  rw [hbusy]
  split <;> rfl

/-- A turn of the host that writes no KEY register neither reads nor changes KEY. -/
theorem hostTurn_with_key (s : State) (k : Vector Word 12)
    (h : ∀ off v rest, s.program = .wr off v :: rest → ∀ i, targetOf off ≠ .key i) :
    hostTurn { s with key := k } = { hostTurn s with key := k } := by
  obtain ⟨program, hp⟩ : ∃ program, s.program = program := ⟨_, rfl⟩
  have hp' : { s with key := k }.program = program := hp
  match program with
  | [] => rw [hostTurn_nil hp, hostTurn_nil hp']
  | .wr off v :: rest =>
    rw [hostTurn_wr hp, hostTurn_wr hp']
    exact hostWrite_with_key v { s with program := rest } k (h off v rest hp)
  | .rd off :: rest =>
    rw [hostTurn_rd hp, hostTurn_rd hp', hostRead_with_key]
    rfl
  | .wait :: rest =>
    have hbusy : isBusy { s with key := k } = isBusy s := rfl
    rw [hostTurn_wait hp, hostTurn_wait hp', hbusy]
    split <;> rfl

/-! ### The operand registers -/

/-- The registers that the host both writes and reads (10_state.md R120, R121, R131, R132, R134). -/
def Target.isOperand : Target → Bool
  | .adPtr => true
  | .adLen => true
  | .msgPtr => true
  | .msgLen => true
  | .outPtr => true
  | .nonce _ => true
  | .din _ => true
  | .tag _ => true
  | _ => false

theorem isOperand_targetOf {off : BitVec 13}
    (h : (4 ≤ off.toNat / 4 ∧ off.toNat / 4 ≤ 8) ∨ (32 ≤ off.toNat / 4 ∧ off.toNat / 4 < 40) ∨
      (44 ≤ off.toNat / 4 ∧ off.toNat / 4 < 48)) : (targetOf off).isOperand = true := by
  rcases targetOf_cases off with h' | h' | h' | h' | h' | h' | h' | h' | h' | ⟨i, h'⟩ | ⟨i, h'⟩ |
    ⟨i, h'⟩ | ⟨i, h'⟩ | ⟨i, h'⟩ | h' | ⟨w, h'⟩
  all_goals
    obtain ⟨hi, ht⟩ := h'
    rw [ht]
  any_goals rfl
  all_goals omega

/-- One register of a bank after a write to one of them. -/
theorem getElem_set_fin {n : Nat} (x : Vector Word n) (i j : Fin n) (v : Word) :
    (x.set i v)[j] = if j = i then v else x[j] := by
  simp only [Fin.getElem_fin, Vector.getElem_set, Fin.ext_iff, eq_comm]

/-- An operand register reads back what was written to it. -/
theorem readIdle_writeIdle_same {t : Target} (ht : t.isOperand = true) (v : Word) (s : State) :
    readIdle (writeIdle v s t) t = v := by
  cases t with
  | adPtr | adLen | msgPtr | msgLen | outPtr => rfl
  | nonce i | din i | tag i => exact (getElem_set_fin _ i i v).trans (if_pos rfl)
  | _ => cases ht

/-- A write to an operand register changes what no other target reads. -/
theorem readIdle_writeIdle_other {t x : Target} (ht : t.isOperand = true) (hx : x ≠ t) (v : Word)
    (s : State) : readIdle (writeIdle v s t) x = readIdle s x := by
  cases t with
  | adPtr | adLen | msgPtr | msgLen | outPtr =>
    cases x
    any_goals rfl
    contradiction
  | nonce i =>
    cases x with
    | nonce j => exact (getElem_set_fin _ i j v).trans (if_neg fun e => hx (by rw [e]))
    | _ => rfl
  | din i =>
    cases x with
    | din j => exact (getElem_set_fin _ i j v).trans (if_neg fun e => hx (by rw [e]))
    | _ => rfl
  | tag i =>
    cases x with
    | tag j => exact (getElem_set_fin _ i j v).trans (if_neg fun e => hx (by rw [e]))
    | _ => rfl
  | _ => cases ht

/-- An operand register's write leaves KEY, the parameters, the sequencer and BUF. -/
theorem writeIdle_operand_keeps {t : Target} (ht : t.isOperand = true) (v : Word) (s : State) :
    (writeIdle v s t).key = s.key ∧ (writeIdle v s t).params = s.params ∧
      (writeIdle v s t).seq = s.seq ∧ KeepsBuf s (writeIdle v s t) := by
  cases t with
  | adPtr | adLen | msgPtr | msgLen | outPtr | nonce | din | tag => exact ⟨rfl, rfl, rfl, fun _ => rfl⟩
  | _ => cases ht

/-- Offsets that name the same operand register have the same word index. -/
theorem div_four_eq_of_targetOf_eq {off x : BitVec 13} (ht : (targetOf off).isOperand = true)
    (h : targetOf x = targetOf off) : x.toNat / 4 = off.toNat / 4 := by
  have key {t : Target} {r : Nat} (e : targetOf off = t) (hr : t.index = some r) :
      x.toNat / 4 = off.toNat / 4 :=
    (div_four_of_targetOf (h.trans e) hr).trans (div_four_of_targetOf e hr).symm
  cases e : targetOf off with
  | reserved => rw [e] at ht; cases ht
  | _ => exact key e rfl

/-- A write to an operand register, as the host's later reads see it (10_state.md R141). -/
theorem hostWrite_operand {s : State} (hs : s.seq = .idle) {off : BitVec 13}
    (ht : (targetOf off).isOperand = true) (v : Word) :
    hostRead (hostWrite off v s) off = v ∧
      (∀ x : BitVec 13, x.toNat / 4 ≠ off.toNat / 4 →
        hostRead (hostWrite off v s) x = hostRead s x) ∧
      (hostWrite off v s).key = s.key ∧ (hostWrite off v s).params = s.params ∧
      (hostWrite off v s).seq = s.seq ∧ KeepsBuf s (hostWrite off v s) := by
  rw [hostWrite_idle (not_isBusy_of_idle hs)]
  obtain ⟨hkey, hparams, hseq, hbuf⟩ := writeIdle_operand_keeps ht v s
  have hs' : (writeIdle v s (targetOf off)).seq = .idle := hseq.trans hs
  refine ⟨?_, fun x hx => ?_, hkey, hparams, hseq, hbuf⟩
  · rw [hostRead_idle hs', readIdle_writeIdle_same ht]
  · rw [hostRead_idle hs', hostRead_idle hs,
      readIdle_writeIdle_other ht fun e => hx (div_four_eq_of_targetOf_eq ht e)]

/-! ### Banks at reset -/

theorem zero4_getElem (i : Fin 4) : zero4[i] = 0#32 := by
  revert i; decide

theorem zero12_getElem (i : Fin 12) : zero12[i] = 0#32 := by
  revert i; decide

end Sys2Proof.Machine
end

section
/-! SUPPORT. Steps and completions by their cause (46_system.md R1010, R1012), and runs of steps. -/

namespace Sys2Proof.Machine

open Sys2Proof

theorem step_scheduled {s : State} {turn : Turn} {rest : List Turn} (h : s.schedule = turn :: rest) :
    step s = takeTurn turn { s with schedule := rest } := by
  simp [step, scheduledStep, h]

theorem step_complete {s : State} {rest : List Turn} (h : s.schedule = .complete :: rest) :
    step s = completeTurn { s with schedule := rest } := step_scheduled h

theorem step_default_busy {s : State} (h : s.schedule = []) (hs : isBusy s = true) :
    step s = completeTurn s := by
  simp [step, scheduledStep, h, defaultTurn, hs, takeTurn]

theorem completeTurn_decoded {s : State} {w : Word} {i : Instr} (hs : s.seq = .busy w)
    (hi : decode w = .ok i) : completeTurn s = exec i s := by
  simp [completeTurn, wordInFlight, hs, hi]

theorem completeTurn_illegal {s : State} {w : Word} {e : DecodeError} (hs : s.seq = .busy w)
    (he : decode w = .error e) : completeTurn s = raiseErr .illegal s := by
  simp [completeTurn, wordInFlight, hs, he]

/-- A run takes the step of the machine first. -/
theorem run_succ {s t : State} (h : step s = .next t) (k : Nat) :
    Host.Core.run Sys2Proof.core (k + 1) s = Host.Core.run Sys2Proof.core k t := by
  have h' : Sys2Proof.core.step s = .next t := h
  simp only [Host.Core.run, h']

end Sys2Proof.Machine
end

section
/-! SUPPORT. The invariant, one lemma per way a step can end (10_state.md R150, R160-R162). -/

namespace Sys2Proof.Machine

open Sys2Proof

theorem inv_iff (s : State) :
    Inv s = true ↔ s.params.wf = true ∧ s.buf.wf s.params.bufBytes = true ∧
      (s.done = false → s.err = .ok) ∧ ∀ w, s.seq = .busy w → s.done = false ∧ s.cmd = w := by
  unfold Inv
  cases s.seq <;> cases s.done <;> simp [and_assoc]

/-- A completion is well formed if the parameters and BUF are: DONE is 1 and SEQ is IDLE. -/
theorem inv_complete {s : State} (code : ErrCode) (hparams : s.params.wf = true)
    (hbuf : s.buf.wf s.params.bufBytes = true) : Inv (complete code s) = true :=
  (inv_iff _).mpr ⟨hparams, hbuf, nofun, nofun⟩

/-- An output within its region keeps BUF canonical: an empty one writes nothing. -/
theorem wf_writeOutput {v : List Nibble} {s : State} (hfit : regionsOk s = true)
    (hlen : v.length = s.msgLen.toNat) (hbuf : s.buf.wf s.params.bufBytes = true) :
    (writeOutput v s).buf.wf s.params.bufBytes = true := by
  obtain ⟨-, -, hout⟩ := (regionsOk_iff s).mp hfit
  rw [writeOutput_buf]
  rcases hout with h0 | hle
  · rw [List.eq_nil_of_length_eq_zero (hlen.trans h0)]
    exact hbuf
  · exact Memory.wf_cellsWrite _ _ _ _ (by rw [length_nibbleBytes, hlen]; exact hle) hbuf

theorem Ends.inv {s t : State} {i : Instr} (h : Ends s i t) (hs : Inv s = true) : Inv t = true := by
  obtain ⟨hparams, hbuf, -, -⟩ := (inv_iff s).mp hs
  cases h with
  | nop | error | block => exact inv_complete _ hparams hbuf
  | clear => exact inv_complete _ hparams (Memory.wf_zeroCells _)
  | output _ v _ hfit hlen => exact inv_complete _ hparams (wf_writeOutput hfit hlen hbuf)
  | sealed _ v tag _ hfit hlen => exact inv_complete _ hparams (wf_writeOutput hfit hlen hbuf)

theorem inv_accept (w : Word) {s : State} (hs : Inv s = true) : Inv (accept w s) = true := by
  obtain ⟨hparams, hbuf, -, -⟩ := (inv_iff s).mp hs
  exact (inv_iff _).mpr ⟨hparams, hbuf, fun _ => rfl, fun _ h => ⟨rfl, Sequencer.busy.inj h⟩⟩

/-- STATUS bit 1 clears DONE and ERR together. -/
theorem inv_writeStatus (v : Word) {s : State} (hs : Inv s = true) :
    Inv (writeStatus v s) = true := by
  obtain ⟨hparams, hbuf, herr, hseq⟩ := (inv_iff s).mp hs
  refine (inv_iff _).mpr ⟨hparams, hbuf, ?_, fun w hw => ?_⟩
  · rw [writeStatus_done, writeStatus_err]
    cases v.getLsbD 1 with
    | false => exact herr
    | true => exact fun _ => rfl
  · obtain ⟨hdone, hcmd⟩ := hseq w hw
    simp [hdone, hcmd]

theorem inv_bufWrite {s : State} (hs : Inv s = true) {a : Nat} {bytes : List Byte}
    (h : a + bytes.length ≤ s.params.bufBytes) : Inv (bufWrite a bytes s) = true := by
  obtain ⟨hparams, hbuf, herr, hseq⟩ := (inv_iff s).mp hs
  exact (inv_iff _).mpr ⟨hparams, Memory.wf_cellsWrite _ _ _ _ h hbuf, herr, hseq⟩

theorem inv_writeIdle (v : Word) {s : State} (hs : Inv s = true) (t : Target) :
    Inv (writeIdle v s t) = true := by
  cases t with
  | cmd => exact inv_accept v hs
  | status => exact inv_writeStatus v hs
  | buf w =>
    simp only [writeIdle]
    split
    · exact inv_bufWrite hs (by simp only [wordBytes, List.length_cons, List.length_nil]; omega)
    · exact hs
  | _ => exact hs

theorem inv_hostWrite (off : BitVec 13) (v : Word) {s : State} (hs : Inv s = true) :
    Inv (hostWrite off v s) = true := by
  unfold hostWrite
  split
  · exact hs
  · exact inv_writeIdle v hs _

theorem inv_hostTurn {s : State} (hs : Inv s = true) : Inv (hostTurn s) = true := by
  rcases hostTurn_cases s with ⟨-, h⟩ | ⟨off, v, rest, -, h⟩ | ⟨off, rest, -, h⟩ | ⟨rest, -, h | h⟩
  all_goals rw [h]
  case inr.inl => exact inv_hostWrite off v (s := { s with program := rest }) hs
  all_goals exact hs

theorem inv_resetEvent {s : State} (hs : Inv s = true) : Inv (resetEvent s) = true := by
  obtain ⟨hparams, -, -, -⟩ := (inv_iff s).mp hs
  exact (inv_iff _).mpr ⟨hparams, rfl, fun _ => rfl, nofun⟩

theorem inv_completeTurn {s : State} (hs : Inv s = true) :
    Answers (completeTurn s) fun t => Inv t = true := by
  rcases completeTurn_cases s with ⟨-, h⟩ | ⟨w, i, -, -, h⟩ | ⟨w, e, -, -, h⟩
  · exact ⟨s, h, hs⟩
  · obtain ⟨t, ht, hends⟩ := exec_ends i s
    exact ⟨t, h.trans ht, hends.inv hs⟩
  · obtain ⟨hparams, hbuf, -, -⟩ := (inv_iff s).mp hs
    exact ⟨_, h, inv_complete _ hparams hbuf⟩

theorem inv_takeTurn (turn : Turn) {s : State} (hs : Inv s = true) :
    Answers (takeTurn turn s) fun t => Inv t = true := by
  cases turn with
  | host => exact ⟨_, rfl, inv_hostTurn hs⟩
  | complete => exact inv_completeTurn hs
  | reset => exact ⟨_, rfl, inv_resetEvent hs⟩

end Sys2Proof.Machine
end

section
/-! SUPPORT. What a command does not depend on: everything the host can change while it runs
(10_state.md R145, 20_memory.md R241). -/

namespace Sys2Proof.Machine

open Sys2Proof

/-- `s` with what the host and the scheduler can change while BUSY taken from `h`. -/
def withHostSide (h s : State) : State :=
  { s with
    done := h.done
    err := h.err
    werr := h.werr
    doneIe := h.doneIe
    werrIe := h.werrIe
    program := h.program
    schedule := h.schedule
    reads := h.reads }

/-- States that agree on what a command reads differ on the host's side only. -/
theorem SameCommandState.eq_withHostSide {s t : State} (h : SameCommandState s t) :
    t = withHostSide t s := by
  obtain ⟨hparams, hcmd, hadPtr, hadLen, hmsgPtr, hmsgLen, houtPtr, hkey, hnonce, hdin, hdout, htag,
    hseq, hbuf, hresets⟩ := h
  simp only [withHostSide, ← hparams, ← hcmd, ← hadPtr, ← hadLen, ← hmsgPtr, ← hmsgLen, ← houtPtr,
    ← hkey, ← hnonce, ← hdin, ← hdout, ← htag, ← hseq, ← hbuf, ← hresets]

theorem sameCommandState_withHostSide (h s : State) : SameCommandState s (withHostSide h s) :=
  ⟨rfl, rfl, rfl, rfl, rfl, rfl, rfl, rfl, rfl, rfl, rfl, rfl, rfl, rfl, rfl⟩

theorem SameCommandState.refl (s : State) : SameCommandState s s :=
  sameCommandState_withHostSide s s

theorem SameCommandState.trans {s t u : State} (h : SameCommandState s t)
    (h' : SameCommandState t u) : SameCommandState s u := by
  rw [h'.eq_withHostSide, h.eq_withHostSide]
  exact sameCommandState_withHostSide u s

theorem SameCommandState.isBusy_eq {s t : State} (h : SameCommandState s t) :
    isBusy t = isBusy s := by
  rw [h.eq_withHostSide]
  rfl

theorem SameCommandState.complete {s t : State} (h : SameCommandState s t) (code : ErrCode) :
    SameCommandState (complete code s) (complete code t) := by
  rw [h.eq_withHostSide]
  exact sameCommandState_withHostSide (Machine.complete code t) (Machine.complete code s)

/-! ### Commands -/

theorem setSkaeadTag_withHostSide (tag : SkaeadTag) (h s : State) :
    setSkaeadTag tag (withHostSide h s) = withHostSide h (setSkaeadTag tag s) := by
  cases tag <;> rfl

/-- A command ends with the same code and the same outputs whatever the host's side holds; CLEAR alone
writes to that side, and there only WERR. -/
theorem exec_withHostSide (i : Instr) (h s : State) : ∃ code t h',
    exec i s = .next (complete code t) ∧
      exec i (withHostSide h s) = .next (complete code (withHostSide h' t)) := by
  cases i with
  | nop | gift64Enc | gift64Dec | gift128Enc | gift128Dec | gift128bsEnc | gift128bsDec =>
    exact ⟨_, _, h, rfl, rfl⟩
  | clear => exact ⟨.ok, clearData s, { h with werr := false }, rfl, rfl⟩
  | skinnyEnc n z rounds =>
    simp only [exec, execSkinnyEnc]
    split
    · exact ⟨_, _, h, rfl, rfl⟩
    · cases n <;> exact ⟨_, _, h, rfl, rfl⟩
  | skinnyDec n z rounds =>
    simp only [exec, execSkinnyDec]
    split
    · exact ⟨_, _, h, rfl, rfl⟩
    · cases n <;> exact ⟨_, _, h, rfl, rfl⟩
  | cofbEnc =>
    by_cases hfit : regionsOk s = true
    · exact ⟨_, _, h, if_pos hfit, if_pos hfit⟩
    · exact ⟨_, _, h, if_neg hfit, if_neg hfit⟩
  | cofbDec =>
    by_cases hfit : regionsOk s = true
    · by_cases htag : (cofbDecrypt s.params.bsLoading (key128 s) (nonce128 s) (adNibbles s)
        (msgNibbles s)).2 = tag128 s
      · exact ⟨_, _, h, (if_pos hfit).trans (if_pos htag), (if_pos hfit).trans (if_pos htag)⟩
      · exact ⟨_, _, h, (if_pos hfit).trans (if_neg htag), (if_pos hfit).trans (if_neg htag)⟩
    · exact ⟨_, _, h, if_neg hfit, if_neg hfit⟩
  | skaeadEnc member =>
    by_cases hfit : regionsOk s = true
    · exact ⟨_, _, h, if_pos hfit,
        (if_pos hfit).trans (congrArg succeed (setSkaeadTag_withHostSide _ h (writeOutput _ s)))⟩
    · exact ⟨_, _, h, if_neg hfit, if_neg hfit⟩
  | skaeadDec member =>
    by_cases hfit : regionsOk s = true
    · by_cases htag : (skaeadDecrypt s.params.memberBits s.params.tagRule member (key128 s)
        (nonce128 s) (adNibbles s) (msgNibbles s)).2 = expectedSkaeadTag member s
      · exact ⟨_, _, h, (if_pos hfit).trans (if_pos htag), (if_pos hfit).trans (if_pos htag)⟩
      · exact ⟨_, _, h, (if_pos hfit).trans (if_neg htag), (if_pos hfit).trans (if_neg htag)⟩
    · exact ⟨_, _, h, if_neg hfit, if_neg hfit⟩

/-- The Complete step ends with the same code and the same outputs in states that agree on what a
command reads. -/
theorem completeTurn_same {s s' : State} {w : Word} (hs : s.seq = .busy w)
    (h : SameCommandState s s') : ∃ code t u,
      completeTurn s = .next (complete code t) ∧ completeTurn s' = .next (complete code u) ∧
      SameCommandState t u := by
  rw [h.eq_withHostSide]
  have hs' : (withHostSide s' s).seq = .busy w := hs
  cases hdec : decode w with
  | error e =>
    exact ⟨.illegal, s, _, completeTurn_illegal hs hdec, completeTurn_illegal hs' hdec,
      sameCommandState_withHostSide s' s⟩
  | ok i =>
    obtain ⟨code, t, h', ht, hu⟩ := exec_withHostSide i s' s
    exact ⟨code, t, _, (completeTurn_decoded hs hdec).trans ht,
      (completeTurn_decoded hs' hdec).trans hu, sameCommandState_withHostSide h' t⟩

/-! ### The host while BUSY -/

/-- While BUSY a turn of the host changes nothing that the command reads, and not the schedule. -/
theorem hostTurn_same {s : State} (hs : isBusy s = true) :
    SameCommandState s (hostTurn s) ∧ (hostTurn s).schedule = s.schedule := by
  have same (t : State) (ht : t = withHostSide t s) (hsched : t.schedule = s.schedule) :
      SameCommandState s t ∧ t.schedule = s.schedule :=
    ⟨ht ▸ sameCommandState_withHostSide t s, hsched⟩
  rcases hostTurn_cases s with ⟨-, h⟩ | ⟨off, v, rest, -, h⟩ | ⟨off, rest, -, h⟩ | ⟨rest, -, h | h⟩
  case inr.inl =>
    rw [h]
    rcases hostWrite_busy (s := { s with program := rest }) hs off v with h' | h' | h'
    all_goals
      rw [h']
      exact same _ rfl rfl
  all_goals
    rw [h]
    exact same _ rfl rfl

/-- The turns of the host that a schedule begins with, while a command is in flight. -/
theorem run_hostTurns (k : Nat) {s : State} {rest : List Turn} (hs : isBusy s = true)
    (hsched : s.schedule = List.replicate k .host ++ rest) :
    ∃ t, SameCommandState s t ∧ t.schedule = rest ∧
      Host.Core.run Sys2Proof.core (k + 1) s = Host.Core.run Sys2Proof.core 1 t := by
  induction k generalizing s with
  | zero => exact ⟨s, .refl s, hsched, rfl⟩
  | succ k ih =>
    have hstep := step_scheduled (turn := .host) (rest := List.replicate k .host ++ rest) hsched
    obtain ⟨hsame, hsched'⟩ :=
      hostTurn_same (s := { s with schedule := List.replicate k .host ++ rest }) hs
    obtain ⟨t, hsame', ht, hrun⟩ := ih (hsame.isBusy_eq.trans hs) hsched'
    have hsame₀ : SameCommandState s _ := hsame
    exact ⟨t, hsame₀.trans hsame', ht, (run_succ hstep (k + 1)).trans hrun⟩

end Sys2Proof.Machine
end

section
/-! SUPPORT. SKINNY reads the active tweakey arrays only (43_skinny.md R710). -/

namespace Sys2Proof.Machine

open Sys2Proof

/-- Tweakey array t lies in the first z·n bits for t ≤ z (43_skinny.md R710). -/
theorem skTweakeyArray_congr (n : BlockSize) {z t : Nat} {bits bits' : BitVec 384} (ht : t ≤ z)
    (h : bits >>> (384 - z * blockBits n) = bits' >>> (384 - z * blockBits n)) :
    skTweakeyArray n bits t = skTweakeyArray n bits' t := by
  have hle : blockBits n * t ≤ z * blockBits n := by
    rw [Nat.mul_comm]
    exact Nat.mul_le_mul_right _ ht
  apply BitVec.eq_of_getLsbD_eq
  intro i hi
  have hbit := congrArg
    (fun x => x.getLsbD (384 - blockBits n * t + i - (384 - z * blockBits n))) h
  have hpos : 384 - z * blockBits n + (384 - blockBits n * t + i - (384 - z * blockBits n)) =
      384 - blockBits n * t + i := by omega
  simp only [BitVec.getLsbD_ushiftRight, hpos] at hbit
  simp only [skTweakeyArray, BitVec.getLsbD_extractLsb', hbit]

/-- Loading reads the active arrays only, so the first z·n bits. -/
theorem skLoadTweakey_congr (n : BlockSize) {z : Nat} {bits bits' : BitVec 384} (hz : 1 ≤ z)
    (h : bits >>> (384 - z * blockBits n) = bits' >>> (384 - z * blockBits n)) :
    skLoadTweakey n z bits = skLoadTweakey n z bits' := by
  have harray {t : Nat} (ht : t ≤ z) := skTweakeyArray_congr n ht h
  unfold skLoadTweakey
  congr 1
  · exact harray hz
  · split
    · exact harray ‹_›
    · rfl
  · split
    · exact harray ‹_›
    · rfl

end Sys2Proof.Machine
end

section
/-! PROOFS. The statements of 10_state.md. -/

namespace Sys2Proof.Machine

open Sys2Proof

/-! ### The window -/

/-- Settles O9: CMD is the register that accepts. -/
theorem cmdWriteIsAccepted : Obligations.CmdWriteIsAccepted :=
  fun _ _ w hs hoff => hostWrite_register hs hoff (by decide) w

/-- Settles O10, from the two tables of what BUSY lets through. -/
theorem busyAccessesAreWithheld : Obligations.BusyAccessesAreWithheld := by
  intro s w off hs
  have hbusy : isBusy s = true := isBusy_of_seq hs
  exact ⟨fun h2 h3 v => hostWrite_dropped hbusy h2 h3 v,
    fun h => hostRead_control s h (by decide), fun h => hostRead_control s h (by decide),
    fun h => hostRead_control s h (by decide), fun h => hostRead_control s h (by decide),
    fun h => hostRead_withheld hbusy h⟩

/-- Settles O11: STATUS is readable and writable in both states of the sequencer. -/
theorem statusReadsAndClears : Obligations.StatusReadsAndClears := by
  intro s off hoff
  have hread : hostRead s off = statusWord s := hostRead_control s hoff (by decide)
  obtain ⟨hbusy, hdone, hwerr, hzero, herr, hhigh⟩ := statusWord_bits s
  rw [hread]
  refine ⟨by rw [hbusy, isBusy_iff], hdone, hwerr, hzero, ?_, hhigh, fun v => ?_⟩
  · rw [herr]
    cases s.err <;> rfl
  · have ht : targetOf off = .status := targetOf_eq_registerAt hoff (by decide)
    rw [hostWrite_of_writable (by rw [ht]; rfl), ht]
    simp only [writeIdle, writeStatus]
    cases v.getLsbD 1 <;> cases v.getLsbD 2 <;> simp

/-- Settles O12: IRQ_EN is readable and writable in both states of the sequencer. -/
theorem irqEnHoldsTwoBits : Obligations.IrqEnHoldsTwoBits := by
  refine ⟨rfl, rfl, fun s off v hoff => ?_⟩
  have ht : targetOf off = .irqEn := targetOf_eq_registerAt hoff (by decide)
  have hwrite : hostWrite off v s = writeIrqEn v s := by
    rw [hostWrite_of_writable (by rw [ht]; rfl), ht]
    rfl
  rw [hwrite]
  exact ⟨rfl, (hostRead_control _ hoff (by decide)).trans (irqEnWord_writeIrqEn v s)⟩

/-- Settles O14: KEY is write-only, and only a write to a KEY offset reaches it. -/
theorem keyIsNeverReadBack : Obligations.KeyIsNeverReadBack := by
  refine ⟨fun s off hlo hhi => ?_, fun s k hnokey => hostTurn_with_key s k fun off v rest hp i ht => ?_⟩
  · have hoff : off.toNat / 4 = 0x040 / 4 + (⟨off.toNat / 4 - 16, by omega⟩ : Fin 12).val := by
      simp only
      omega
    have ht := (targetOf_eq_registerAt hoff (by omega)).trans (registerAt_key _)
    simp [hostRead, ht, readIdle]
  · have hi := div_four_of_targetOf ht rfl
    have := hnokey off v rest hp
    omega

/-- Settles O15: the operand registers as one family, then each offset by the register at its index. -/
theorem registerWritesAreStored : Obligations.RegisterWritesAreStored := by
  intro s off v hs
  refine ⟨fun h => hostWrite_operand hs (isOperand_targetOf h) v, fun i h => ?_,
    fun h => hostRead_register hs h (by decide),
    fun h => ⟨hostRead_register hs h (by decide), hostWrite_register hs h (by decide) v⟩,
    fun h => ⟨hostRead_register hs h (by decide), hostWrite_register hs h (by decide) v⟩,
    fun h => ⟨hostRead_register hs h (by decide), hostWrite_register hs h (by decide) v⟩,
    fun h => ⟨hostRead_register hs h (by decide), hostWrite_register hs h (by decide) v⟩,
    fun h => ⟨hostRead_register hs h (by decide), hostWrite_register hs h (by decide) v⟩,
    fun i h => ?_, fun i h => ?_, fun i h => ?_, fun i h => ?_⟩
  · rw [hostWrite_register hs h (by omega), registerAt_key]
    exact ⟨rfl, fun j => getElem_set_fin _ i j v⟩
  · rw [hostRead_register hs h (by omega), hostWrite_register hs h (by omega), registerAt_nonce]
    exact ⟨rfl, rfl, fun j => getElem_set_fin _ i j v⟩
  · rw [hostRead_register hs h (by omega), hostWrite_register hs h (by omega), registerAt_din]
    exact ⟨rfl, rfl, fun j => getElem_set_fin _ i j v⟩
  · rw [hostRead_register hs h (by omega), hostWrite_register hs h (by omega), registerAt_dout]
    exact ⟨rfl, rfl⟩
  · rw [hostRead_register hs h (by omega), hostWrite_register hs h (by omega), registerAt_tag]
    exact ⟨rfl, rfl, fun j => getElem_set_fin _ i j v⟩

/-- Settles O16, from the targets of the two kinds of offsets. -/
theorem idAndReservedOffsets : Obligations.IdAndReservedOffsets := by
  intro s off
  refine ⟨fun hoff => ⟨hostRead_control s hoff (by decide),
    fun hs v => hostWrite_register hs hoff (by decide) v⟩, fun hoff => ?_⟩
  have ht : targetOf off = .reserved := targetOf_reserved (by omega)
  refine ⟨?_, fun hs v => ?_⟩
  · simp [hostRead, ht, readIdle]
  · rw [hostWrite_idle (not_isBusy_of_idle hs), ht]
    rfl

/-! ### Reset -/

/-- Settles O18, by the target of the offset. -/
theorem resetStateHoldsTheResetValues : Obligations.ResetStateHoldsTheResetValues := by
  refine ⟨fun off hoff => ?_, zero12_getElem, rfl, rfl, rfl, fun _ => rfl⟩
  rw [hostRead_idle rfl]
  cases ht : targetOf off with
  | id => rw [if_pos (div_four_of_targetOf ht rfl)]; rfl
  | buf w =>
    have := div_four_of_targetOf ht rfl
    omega
  | reserved =>
    rw [if_neg fun h0 => ?_]
    · rfl
    · rw [targetOf_eq_registerAt h0 (by decide)] at ht
      cases ht
  | nonce i | din i | dout i | tag i =>
    have := div_four_of_targetOf ht rfl
    rw [if_neg (by omega)]
    exact zero4_getElem i
  | _ =>
    have := div_four_of_targetOf ht rfl
    rw [if_neg (by omega)]
    rfl

/-- Settles O23: nothing is in flight and nothing is written. -/
theorem resetStateIsWellFormed : Obligations.ResetStateIsWellFormed :=
  (inv_iff _).mpr ⟨rfl, Memory.wf_reset, fun _ => rfl, nofun⟩

/-! ### Steps and commands -/

/-- Settles O6: both turns are the Complete step. -/
theorem stepRunsTheDecodedCommand : Obligations.StepRunsTheDecodedCommand := by
  intro s w i hs hi _
  refine ⟨fun h => ?_, fun rest h => ?_⟩
  · rw [step_default_busy h (isBusy_of_seq hs), completeTurn_decoded hs hi]
  · rw [step_complete h]
    exact completeTurn_decoded (s := { s with schedule := rest }) hs hi

/-- Settles O22, one clause per frame lemma of `Ends`. -/
theorem commandsWriteOnlyTheirOutputs : Obligations.CommandsWriteOnlyTheirOutputs := by
  intro i s t h
  have hends : Ends s i t := ends_of_exec h
  obtain ⟨hparams, hcmd, hdoneIe, hwerrIe, hresets, hprogram, hschedule, hreads⟩ :=
    hends.keeps_control
  refine ⟨hparams, hcmd, hdoneIe, hwerrIe, hresets, hprogram, hschedule, hreads,
    hends.keepsOperands, fun hi => ?_, fun hclear hcofb hskaead => ?_, fun hi => ?_,
    fun hclear a ha => hends.bufByte_outside hclear ha⟩
  · cases i with
    | nop | cofbEnc | cofbDec | skaeadEnc | skaeadDec => exact hends.dout_eq nofun rfl
    | _ => simp at hi
  · cases i with
    | clear | cofbEnc => contradiction
    | skaeadEnc m => exact absurd rfl (hskaead m)
    | _ => exact hends.tag_eq hclear rfl
  · cases i with
    | clear | cofbEnc | cofbDec | skaeadEnc | skaeadDec => simp at hi
    | _ => exact hends.keepsBuf nofun rfl

/-- Settles O24, by the agent that takes the step. -/
theorem everyStepKeepsTheStateWellFormed : Obligations.EveryStepKeepsTheStateWellFormed := by
  intro s hs
  rcases step_cases s with ⟨turn, rest, -, h⟩ | ⟨-, -, h⟩ | ⟨-, -, h⟩
  · rw [h]
    exact inv_takeTurn turn (s := { s with schedule := rest }) hs
  · rw [h]
    exact inv_completeTurn hs
  · exact ⟨_, h, inv_hostTurn hs⟩

/-- Settles O25: the host's turns lead to a state that differs on the host's side only, and the Complete
step does not see that side. -/
theorem hostCannotDisturbARunningCommand : Obligations.HostCannotDisturbARunningCommand := by
  intro s w k rest hs
  have hbusy : isBusy s = true := isBusy_of_seq hs
  obtain ⟨s', hsame, hsched, hrun⟩ :=
    run_hostTurns k (s := { s with schedule := List.replicate k Turn.host ++ .complete :: rest })
      hbusy rfl
  have hsame' : SameCommandState { s with schedule := rest } { s' with schedule := rest } := hsame
  obtain ⟨code, t, u, ht, hu, htu⟩ := completeTurn_same (s := { s with schedule := rest }) hs hsame'
  have hstep : step s' = .next (complete code u) := (step_complete hsched).trans hu
  exact ⟨_, _, (step_complete (s := { s with schedule := .complete :: rest }) rfl).trans ht,
    hrun.trans (run_succ hstep 0), htu.complete code, rfl, rfl, rfl⟩

/-- Settles O44: both directions use the key only through the tweakey that is loaded. -/
theorem skinnyIgnoresUnusedKeyBits : Obligations.SkinnyIgnoresUnusedKeyBits := by
  intro n z rounds bits bits' x hz _ h
  have hload : skLoadTweakey n z bits = skLoadTweakey n z bits' := skLoadTweakey_congr n hz h
  simp only [skinnyEncrypt, skinnyDecrypt, skRounds, hload, and_self]

end Sys2Proof.Machine
end

section
/-! SUPPORT. Accesses to the BUF window, and nibble strings in BUF (20_memory.md R210, R220). -/

namespace Sys2Proof.Machine

open Sys2Proof

/-! ### The BUF window -/

/-- Offset bits 1 and 0 take no part in the decoding of an offset (20_memory.md R210). -/
theorem targetOf_and_aligned (off : BitVec 13) : targetOf (off &&& 0x1FFC#13) = targetOf off := by
  have hindex : (off &&& 0x1FFC#13).toNat / 4 = off.toNat / 4 :=
    calc (off &&& 0x1FFC#13).toNat / 2 ^ 2
      _ = off.toNat / 4 &&& (2 ^ 11 - 1) := by rw [BitVec.toNat_and, Nat.and_div_two_pow]; rfl
      _ = off.toNat / 4 := by rw [Nat.and_two_pow_sub_one_eq_mod, Nat.mod_eq_of_lt (by omega)]
  simp only [targetOf, hindex]

theorem targetOf_buf {off : BitVec 13} {w : Nat} (h : off.toNat / 4 = 0x1000 / 4 + w) :
    targetOf off = .buf w := by
  simp only [targetOf, h]
  rw [if_neg (by omega), Nat.add_sub_cancel_left]

theorem hostRead_congr {off off' : BitVec 13} (h : targetOf off = targetOf off') (s : State) :
    hostRead s off = hostRead s off' := by
  simp only [hostRead, h]

theorem hostWrite_congr {off off' : BitVec 13} (h : targetOf off = targetOf off') (v : Word)
    (s : State) : hostWrite off v s = hostWrite off' v s := by
  simp only [hostWrite, h]

/-- Reads and writes of a word of the window while IDLE. -/
theorem hostAccess_buf {s : State} (hs : s.seq = .idle) {off : BitVec 13} {w : Nat}
    (h : off.toNat / 4 = 0x1000 / 4 + w) (v : Word) :
    hostRead s off = (if 4 * w + 3 < s.params.bufBytes then bufWord s (4 * w) else 0#32) ∧
    hostWrite off v s =
      if 4 * w + 3 < s.params.bufBytes then bufWrite (4 * w) (wordBytes v) s else s := by
  rw [hostRead_idle hs, hostWrite_idle (not_isBusy_of_idle hs), targetOf_buf h]
  exact ⟨rfl, rfl⟩

/-- Byte i of a word stored at a, the most significant first (20_memory.md R203). -/
theorem bufByte_bufWrite_wordBytes (s : State) (a : Nat) (v : Word) {i : Nat} (hi : i < 4) :
    bufByte (bufWrite a (wordBytes v) s) (a + i) = v.extractLsb' (8 * (3 - i)) 8 := by
  rw [bufByte_bufWrite, if_pos ⟨by omega, by simpa [wordBytes] using hi⟩, Nat.add_sub_cancel_left]
  match i with
  | 0 | 1 | 2 | 3 => rfl

theorem bufByte_bufWrite_outside {s : State} {a x : Nat} {bytes : List Byte}
    (h : x < a ∨ a + bytes.length ≤ x) : bufByte (bufWrite a bytes s) x = bufByte s x := by
  rw [bufByte_bufWrite, if_neg (by omega)]

/-! ### Nibble strings -/

/-- Byte i of a packed nibble string: its two nibbles, 0 for a nibble beyond the end. -/
theorem getD_nibbleBytes : ∀ (v : List Nibble) (i : Nat),
    (nibbleBytes v).getD i 0#8 = v.getD (2 * i) 0#4 ++ v.getD (2 * i + 1) 0#4
  | [], _ => by simp [nibbleBytes]
  | [_], 0 => rfl
  | [_], i + 1 => by simp [nibbleBytes, Nat.mul_succ]
  | _ :: _ :: _, 0 => rfl
  | _ :: _ :: rest, i + 1 => getD_nibbleBytes rest i

/-- Byte i of the region that `NibWrite` writes. -/
theorem bufByte_nibWrite_inside (a : Nat) (v : List Nibble) (s : State) {i : Nat}
    (hi : i < (v.length + 1) / 2) :
    bufByte (nibWrite a v s) (a + i) = v.getD (2 * i) 0#4 ++ v.getD (2 * i + 1) 0#4 := by
  rw [nibWrite, bufByte_bufWrite, length_nibbleBytes, if_pos (by omega), Nat.add_sub_cancel_left,
    getD_nibbleBytes]

theorem extract_append_high (h l : Nibble) : (h ++ l).extractLsb' 4 4 = h := by
  revert h l; decide

theorem extract_append_low (h l : Nibble) : (h ++ l).extractLsb' 0 4 = l := by
  revert h l; decide

/-- Nibble t of the string that `NibWrite` placed. -/
theorem bufNibble_nibWrite (a : Nat) (v : List Nibble) (s : State) {t : Nat} (ht : t < v.length) :
    bufNibble (nibWrite a v s) a t = v[t] := by
  rw [bufNibble, bufByte_nibWrite_inside a v s (by omega)]
  split
  · rw [extract_append_high, show 2 * (t / 2) = t by omega, List.getD_eq_getElem _ _ ht]
  · rw [extract_append_low, show 2 * (t / 2) + 1 = t by omega, List.getD_eq_getElem _ _ ht]

theorem nibRead_nibWrite (a : Nat) (v : List Nibble) (s : State) :
    nibRead (nibWrite a v s) a v.length = v := by
  apply List.ext_getElem (length_nibRead _ _ _)
  intro t _ ht
  simp only [nibRead, List.getElem_map, List.getElem_range, bufNibble_nibWrite a v s ht]

/-- The low nibble after an odd-length string is 0 (20_memory.md R220). -/
theorem bufByte_nibWrite_tail (a : Nat) (v : List Nibble) (s : State) (h : v.length % 2 = 1) :
    (bufByte (nibWrite a v s) (a + v.length / 2)).extractLsb' 0 4 = 0#4 := by
  rw [bufByte_nibWrite_inside a v s (by omega), extract_append_low,
    List.getD_eq_default _ _ (by omega)]

/-- A nibble string depends on the bytes of its region only. -/
theorem nibRead_congr {s t : State} {a len : Nat}
    (h : ∀ x, inNibRegion a len x → bufByte t x = bufByte s x) : nibRead t a len = nibRead s a len := by
  apply List.map_congr_left
  intro i hi
  have hbyte : bufByte t (a + i / 2) = bufByte s (a + i / 2) :=
    h _ ⟨by omega, by have := List.mem_range.mp hi; omega⟩
  simp only [bufNibble, hbyte]

end Sys2Proof.Machine
end

section
/-! PROOFS. The statements of 20_memory.md about BUF, and the host's turn. -/

namespace Sys2Proof.Machine

open Sys2Proof

/-- Settles O8, one clause per transaction. -/
theorem hostTurnIssuesTheNextTransaction : Obligations.HostTurnIssuesTheNextTransaction := by
  intro s rest
  refine ⟨fun off v h => hostTurn_wr h, fun off h => hostTurn_rd h, fun h hbusy => ?_,
    fun h hidle => ?_⟩
  · rw [hostTurn_wait h, if_pos ((isBusy_iff s).mpr hbusy)]
  · rw [hostTurn_wait h, not_isBusy_of_idle hidle]
    rfl

/-- Settles O17: an offset is its target, and a word of the window is a write of four bytes. -/
theorem bufWindowIsBigEndian : Obligations.BufWindowIsBigEndian := by
  refine ⟨fun s off v => ?_, fun s off v w hs hoff => ?_⟩
  · have ht : targetOf off = targetOf (off &&& 0x1FFC#13) := (targetOf_and_aligned off).symm
    exact ⟨hostRead_congr ht s, hostWrite_congr ht v s⟩
  obtain ⟨hread, hwrite⟩ := hostAccess_buf hs hoff v
  refine ⟨fun hin => ?_, fun hout => ?_⟩
  · rw [if_pos hin] at hread hwrite
    have hbyte {i : Nat} (hi : i < 4) := bufByte_bufWrite_wordBytes s (4 * w) v hi
    rw [hread, hwrite]
    refine ⟨rfl, rfl, hbyte (i := 0) (by decide), hbyte (i := 1) (by decide),
      hbyte (i := 2) (by decide), hbyte (i := 3) (by decide),
      fun a ha => bufByte_bufWrite_outside ha⟩
  · rw [if_neg (by omega)] at hread hwrite
    exact ⟨hread, hwrite⟩

/-- Settles O49: the string read back is the string written, nibble by nibble. -/
theorem nibbleStringsInBuf : Obligations.NibbleStringsInBuf := by
  refine ⟨fun s a len t ht => ?_, length_nibRead, fun s a v => ⟨rfl, nibRead_nibWrite a v s,
    bufByte_nibWrite_tail a v s, fun x hx => ?_⟩⟩
  · simp [nibRead, bufNibble, ht]
  · exact bufByte_nibWrite_outside a x v s fun ⟨hlo, hhi⟩ => by omega

end Sys2Proof.Machine
end

section
/-! SUPPORT. Each layer of SKINNY and its inverse, and that decryption undoes encryption (43_skinny.md
R702-R722). -/

namespace Sys2Proof.Machine

open Sys2Proof

theorem skSbox4Inv_skSbox4 (x : Nibble) : skSbox4Inv (skSbox4 x) = x := by
  revert x; decide

theorem skSbox8Inv_skSbox8 (x : Byte) : skSbox8Inv (skSbox8 x) = x := by
  revert x; decide

theorem skSboxInv_skSbox (n : BlockSize) (x : BitVec (cellBits n)) :
    skSboxInv n (skSbox n x) = x := by
  cases n with
  | n64 => exact skSbox4Inv_skSbox4 x
  | n128 => exact skSbox8Inv_skSbox8 x

theorem skInvSubCells_skSubCells (n : BlockSize) (s : BitVec (blockBits n)) :
    skInvSubCells n (skSubCells n s) = s := by
  refine skCell_ext n fun i hi => ?_
  rw [skInvSubCells, skCell_skPack n _ i hi, skSubCells, skCell_skPack n _ i hi, skSboxInv_skSbox]

theorem xor_xor_cancel_right {w : Nat} (x y : BitVec w) : x ^^^ y ^^^ y = x := by
  rw [BitVec.xor_assoc, BitVec.xor_self, BitVec.xor_zero]

theorem skAddConstants_skAddConstants (n : BlockSize) (s : BitVec (blockBits n)) (rc : BitVec 6) :
    skAddConstants n (skAddConstants n s rc) rc = s := by
  refine skCell_ext n fun i hi => ?_
  rw [skAddConstants, skCell_skPack n _ i hi, skAddConstants, skCell_skPack n _ i hi,
    xor_xor_cancel_right]

theorem skAddRoundTweakey_skAddRoundTweakey (n : BlockSize) (z : Nat) (s : BitVec (blockBits n))
    (tk : Tweakey n) : skAddRoundTweakey n z (skAddRoundTweakey n z s tk) tk = s := by
  refine skCell_ext n fun i hi => ?_
  rw [skAddRoundTweakey, skCell_skPack n _ i hi, skAddRoundTweakey, skCell_skPack n _ i hi,
    xor_xor_cancel_right]

theorem skShiftIndex_skShiftIndexInv : ∀ i < 16,
    skShiftIndexInv.getD i 0 < 16 ∧ skShiftIndex.getD (skShiftIndexInv.getD i 0) 0 = i := by
  decide

theorem skInvShiftRows_skShiftRows (n : BlockSize) (s : BitVec (blockBits n)) :
    skInvShiftRows n (skShiftRows n s) = s := by
  refine skCell_ext n fun i hi => ?_
  obtain ⟨hlt, hinv⟩ := skShiftIndex_skShiftIndexInv i hi
  rw [skInvShiftRows, skCell_skPack n _ i hi, skShiftRows, skCell_skPack n _ _ hlt, hinv]

/-- MixColumns on column j (43_skinny.md R707). -/
theorem skCell_skMixColumns (n : BlockSize) (s : BitVec (blockBits n)) {j : Nat} (hj : j < 4) :
    skCell n (skMixColumns n s) j = skCell n s j ^^^ skCell n s (j + 8) ^^^ skCell n s (j + 12) ∧
    skCell n (skMixColumns n s) (j + 4) = skCell n s j ∧
    skCell n (skMixColumns n s) (j + 8) = skCell n s (j + 4) ^^^ skCell n s (j + 8) ∧
    skCell n (skMixColumns n s) (j + 12) = skCell n s j ^^^ skCell n s (j + 8) := by
  unfold skMixColumns
  rw [skCell_skPack n _ _ (by omega), skCell_skPack n _ _ (by omega), skCell_skPack n _ _ (by omega),
    skCell_skPack n _ _ (by omega)]
  match j with
  | 0 | 1 | 2 | 3 => exact ⟨rfl, rfl, rfl, rfl⟩

/-- InvMixColumns on column j (43_skinny.md R708). -/
theorem skCell_skInvMixColumns (n : BlockSize) (s : BitVec (blockBits n)) {j : Nat} (hj : j < 4) :
    skCell n (skInvMixColumns n s) j = skCell n s (j + 4) ∧
    skCell n (skInvMixColumns n s) (j + 4) =
      skCell n s (j + 4) ^^^ skCell n s (j + 8) ^^^ skCell n s (j + 12) ∧
    skCell n (skInvMixColumns n s) (j + 8) = skCell n s (j + 4) ^^^ skCell n s (j + 12) ∧
    skCell n (skInvMixColumns n s) (j + 12) = skCell n s j ^^^ skCell n s (j + 12) := by
  unfold skInvMixColumns
  rw [skCell_skPack n _ _ (by omega), skCell_skPack n _ _ (by omega), skCell_skPack n _ _ (by omega),
    skCell_skPack n _ _ (by omega)]
  match j with
  | 0 | 1 | 2 | 3 => exact ⟨rfl, rfl, rfl, rfl⟩

/-- Two SKINNY values with equal columns are equal. -/
theorem skColumn_ext (n : BlockSize) {a b : BitVec (blockBits n)}
    (h : ∀ j < 4, skCell n a j = skCell n b j ∧ skCell n a (j + 4) = skCell n b (j + 4) ∧
      skCell n a (j + 8) = skCell n b (j + 8) ∧ skCell n a (j + 12) = skCell n b (j + 12)) : a = b := by
  refine skCell_ext n fun i hi => ?_
  obtain ⟨h0, h4, h8, h12⟩ := h (i % 4) (by omega)
  obtain e | e | e | e : i = i % 4 ∨ i = i % 4 + 4 ∨ i = i % 4 + 8 ∨ i = i % 4 + 12 := by omega
  all_goals
    rw [e]
    assumption

theorem skInvMixColumns_skMixColumns (n : BlockSize) (s : BitVec (blockBits n)) :
    skInvMixColumns n (skMixColumns n s) = s := by
  refine skColumn_ext n fun j hj => ?_
  obtain ⟨m0, m4, m8, m12⟩ := skCell_skMixColumns n s hj
  obtain ⟨i0, i4, i8, i12⟩ := skCell_skInvMixColumns n (skMixColumns n s) hj
  rw [i0, i4, i8, i12, m0, m4, m8, m12]
  refine ⟨rfl, ?_, ?_, ?_⟩
  -- every cell but one occurs twice
  all_goals grind

theorem skInvRound_skRound (n : BlockSize) (z : Nat) (r : Tweakey n × BitVec 6)
    (s : BitVec (blockBits n)) : skInvRound n z r (skRound n z s r) = s := by
  rw [skInvRound, skRound, skInvMixColumns_skMixColumns, skInvShiftRows_skShiftRows,
    skAddRoundTweakey_skAddRoundTweakey, skAddConstants_skAddConstants, skInvSubCells_skSubCells]

/-- Undoing rounds last to first undoes them all. -/
theorem foldr_foldl_cancel {α β : Type} {f : β → α → β} {g : α → β → β}
    (h : ∀ r s, g r (f s r) = s) (rounds : List α) (s : β) : rounds.foldr g (rounds.foldl f s) = s := by
  induction rounds generalizing s with
  | nil => rfl
  | cons r rounds ih => rw [List.foldl_cons, List.foldr_cons, ih, h]

/-- Decryption undoes encryption for every block size, tweakey count and round count (43_skinny.md
R722). -/
theorem skinnyDecrypt_skinnyEncrypt (n : BlockSize) (z rounds : Nat) (bits : BitVec 384)
    (x : BitVec (blockBits n)) :
    skinnyDecrypt n z rounds bits (skinnyEncrypt n z rounds bits x) = x :=
  foldr_foldl_cancel (skInvRound_skRound n z) _ x

end Sys2Proof.Machine
end

section
/-! SUPPORT. Decryption undoes encryption in both AEAD modes: pass by pass over the blocks of the string,
then the whole command (44_gift_cofb.md R814, 45_skinny_aead.md R917). -/

namespace Sys2Proof.Machine

open Sys2Proof

/-! ### Cutting an output string -/

/-- A string that is put together from a block's output and the rest is cut there again. -/
theorem take_drop_of_blockOutput {o r v : List Nibble} (ho : o.length = (v.take 32).length)
    (hr : r.length = (v.drop 32).length) : (o ++ r).take 32 = o ∧ (o ++ r).drop 32 = r := by
  rw [List.length_take] at ho
  rw [List.length_drop] at hr
  by_cases h : v.length < 32
  · have hnil : r = [] := List.eq_nil_of_length_eq_zero (by omega)
    subst hnil
    rw [List.append_nil]
    exact ⟨List.take_of_length_le (by omega), List.drop_of_length_le (by omega)⟩
  · have ho' : o.length = 32 := by omega
    exact ⟨List.take_left' ho', List.drop_left' ho'⟩

theorem split_eq_splitBlocks {v w : List Nibble} (hv : v.length ≠ 0) (h : w.length = v.length) :
    split w = splitBlocks ((v.length + 31) / 32) w := by
  rw [split, if_neg (h ▸ hv), h]

/-! ### GIFT-COFB -/

theorem length_cofbMessagePass_splitBlocks (e : Block → Block) (dir : Direction) {k : Nat}
    {v : List Nibble} (hv : v.length ≤ 32 * k) (y : Block) (delta : BitVec 64) :
    (cofbMessagePass e dir (splitBlocks k v) y delta).1.length = v.length := by
  rw [length_cofbMessagePass _ _ _ _ _ fun _ => length_le_of_mem_splitBlocks, flatten_splitBlocks hv]

/-- Decrypting the output of the message pass: the blocks, the masks and the cipher inputs are those of
the encryption (44_gift_cofb.md R812). -/
theorem cofbMessagePass_decrypt (e : Block → Block) : ∀ (k : Nat) (v : List Nibble) (y : Block)
    (delta : BitVec 64), v.length ≤ 32 * k →
    cofbMessagePass e .decrypt
        (splitBlocks k (cofbMessagePass e .encrypt (splitBlocks k v) y delta).1) y delta =
      (v, (cofbMessagePass e .encrypt (splitBlocks k v) y delta).2)
  | 0, v, y, delta, hv => by
    simp [splitBlocks, cofbMessagePass, List.eq_nil_of_length_eq_zero (by omega : v.length = 0)]
  | 1, v, y, delta, hv => by
    have htake : v.take 32 = v := List.take_of_length_le (by omega)
    have hlen : (xorTrunc v y).length = v.length := by rw [length_xorTrunc]; omega
    have htake' : (xorTrunc v y).take 32 = xorTrunc v y := List.take_of_length_le (by omega)
    simp only [splitBlocks, htake, cofbMessagePass, htake', hlen, cofbPlain,
      xorTrunc_xorTrunc v y (by omega)]
  | k + 2, v, y, delta, hv => by
    have hdrop : (v.drop 32).length ≤ 32 * (k + 1) := by rw [List.length_drop]; omega
    have hblock : (v.take 32).length ≤ 32 := List.length_take_le 32 v
    have ho : (xorTrunc (v.take 32) y).length = (v.take 32).length := by rw [length_xorTrunc]; omega
    have ih := cofbMessagePass_decrypt e (k + 1) (v.drop 32)
      (e (cofbInput y (double delta) (v.take 32))) (double delta) hdrop
    have hr := length_cofbMessagePass_splitBlocks e .encrypt hdrop
      (e (cofbInput y (double delta) (v.take 32))) (double delta)
    obtain ⟨htake, hdrop'⟩ := take_drop_of_blockOutput ho hr
    simp only [splitBlocks] at ih htake hdrop'
    simp only [splitBlocks, cofbMessagePass, cofbPlain, htake, hdrop', xorTrunc_xorTrunc _ y hblock,
      ih, List.take_append_drop]

/-- Verification of an encryption returns the message and the same tag (44_gift_cofb.md R814). -/
theorem cofb_decrypt_encrypt (e : Block → Block) (nonce : Block) (ad msg : List Nibble) :
    cofb e .decrypt nonce ad (cofb e .encrypt nonce ad msg).1 =
      (msg, (cofb e .encrypt nonce ad msg).2) := by
  have hlen : (cofb e .encrypt nonce ad msg).1.length = msg.length := length_cofb ..
  unfold cofb at hlen ⊢
  by_cases h : msg.length = 0
  · simp [List.eq_nil_of_length_eq_zero h]
  · simp only [if_neg h] at hlen ⊢
    rw [hlen, if_neg h, split_eq_splitBlocks h hlen, split_eq_splitBlocks h rfl]
    exact cofbMessagePass_decrypt e _ msg _ _ (by omega)

theorem cofbDecrypt_cofbEncrypt (loading : BsLoading) (k nonce : Block) (ad msg : List Nibble) :
    cofbDecrypt loading k nonce ad (cofbEncrypt loading k nonce ad msg).1 =
      (msg, (cofbEncrypt loading k nonce ad msg).2) := cofb_decrypt_encrypt ..

/-! ### SKINNY-AEAD -/

theorem skaeadD_skaeadE (x : SkaeadContext) (lfsr : BitVec 64) (role : Role) (m : Block) :
    skaeadD x lfsr role (skaeadE x lfsr role m) = m :=
  skinnyDecrypt_skinnyEncrypt .n128 3 56 _ m

/-- Decrypting the output of one message block (45_skinny_aead.md R913). -/
theorem skaeadBlockOut_decrypt (x : SkaeadContext) (lfsr : BitVec 64) {m : List Nibble}
    (h : m.length ≤ 32) :
    skaeadBlockOut x .decrypt lfsr (skaeadBlockOut x .encrypt lfsr m) = m := by
  have hlen := length_skaeadBlockOut x .encrypt lfsr m h
  unfold skaeadBlockOut at hlen ⊢
  rw [hlen]
  by_cases hfull : m.length = 32
  · simp only [if_pos hfull, packNibbles_blockNibbles, skaeadD_skaeadE,
      blockNibbles_packNibbles m hfull]
  · simp only [if_neg hfull, xorTrunc_xorTrunc m _ h]

theorem length_skaeadMessagePass_splitBlocks (x : SkaeadContext) (dir : Direction) {k : Nat}
    {v : List Nibble} (hv : v.length ≤ 32 * k) (lfsr : BitVec 64) (sigma : Block)
    (lastPartial : Bool) :
    (skaeadMessagePass x dir (splitBlocks k v) lfsr sigma lastPartial).out.length = v.length := by
  rw [length_skaeadMessagePass _ _ _ _ _ _ fun _ => length_le_of_mem_splitBlocks,
    flatten_splitBlocks hv]

/-- Decrypting the output of the message pass: the string comes back, and the checksum, the counter and
the tail flag are those of the encryption (45_skinny_aead.md R913, R916). -/
theorem skaeadMessagePass_decrypt (x : SkaeadContext) (k : Nat) (v : List Nibble) (lfsr : BitVec 64)
    (sigma : Block) (lastPartial : Bool) (hv : v.length ≤ 32 * k) :
    skaeadMessagePass x .decrypt (splitBlocks k
        (skaeadMessagePass x .encrypt (splitBlocks k v) lfsr sigma lastPartial).out)
        lfsr sigma lastPartial =
      { skaeadMessagePass x .encrypt (splitBlocks k v) lfsr sigma lastPartial with out := v } := by
  induction k generalizing v lfsr sigma lastPartial with
  | zero =>
    simp [splitBlocks, skaeadMessagePass, List.eq_nil_of_length_eq_zero (by omega : v.length = 0)]
  | succ k ih =>
    have hblock : (v.take 32).length ≤ 32 := List.length_take_le 32 v
    have hdrop : (v.drop 32).length ≤ 32 * k := by rw [List.length_drop]; omega
    have ho := length_skaeadBlockOut x .encrypt lfsr _ hblock
    have hr := length_skaeadMessagePass_splitBlocks x .encrypt hdrop (lfsrNext lfsr)
      (sigma ^^^ blk (v.take 32)) (lastPartial || decide ((v.take 32).length ≠ 32))
    obtain ⟨htake, hdrop'⟩ := take_drop_of_blockOutput ho hr
    simp only [splitBlocks, skaeadMessagePass, skaeadBlockPlain, htake, hdrop', ho,
      skaeadBlockOut_decrypt x lfsr hblock, ih _ _ _ _ hdrop, List.take_append_drop]

/-- Decryption of an encryption returns the message and the same tag (45_skinny_aead.md R917). -/
theorem skaead_decrypt_encrypt (x : SkaeadContext) (rule : TagRule) (ad msg : List Nibble) :
    skaead x rule .decrypt ad (skaead x rule .encrypt ad msg).1 =
      (msg, (skaead x rule .encrypt ad msg).2) := by
  have hlen : (skaead x rule .encrypt ad msg).1.length = msg.length := length_skaead ..
  unfold skaead at hlen ⊢
  by_cases h : msg.length = 0
  · simp [List.eq_nil_of_length_eq_zero h]
  · simp only [if_neg h] at hlen ⊢
    rw [hlen]
    simp only [if_neg h]
    rw [split_eq_splitBlocks h rfl] at hlen ⊢
    rw [split_eq_splitBlocks h hlen, skaeadMessagePass_decrypt x _ msg _ _ _ (by omega)]

theorem skaeadDecrypt_skaeadEncrypt (bits : MemberBits) (rule : TagRule) (member : Member)
    (k nonce : Block) (ad msg : List Nibble) :
    skaeadDecrypt bits rule member k nonce ad (skaeadEncrypt bits rule member k nonce ad msg).1 =
      (msg, (skaeadEncrypt bits rule member k nonce ad msg).2) := by
  simp only [skaeadDecrypt, skaeadEncrypt, skaead_decrypt_encrypt]

end Sys2Proof.Machine
end

section
/-! SUPPORT. What an AEAD encryption leaves when it works in place, as the decryption that follows reads
it (20_memory.md R222, 44_gift_cofb.md R830, R831, 45_skinny_aead.md R930, R931). -/

namespace Sys2Proof.Machine

open Sys2Proof

/-! ### A sealed state -/

/-- The end of an AEAD encryption: the output string in its region and the tag in TAG. -/
def sealedState (v : List Nibble) (tag : Vector Word 4) (s : State) : State :=
  complete .ok { writeOutput v s with tag := tag }

theorem bufByte_sealedState_outside {v : List Nibble} {s : State} {a : Nat} (tag : Vector Word 4)
    (hlen : v.length = s.msgLen.toNat) (ha : ¬ inNibRegion s.outPtr.toNat s.msgLen.toNat a) :
    bufByte (sealedState v tag s) a = bufByte s a :=
  bufByte_writeOutput_outside hlen ha

/-- The associated data shares no byte with the output. -/
theorem adNibbles_sealedState {v : List Nibble} {s : State} (tag : Vector Word 4) (hin : InPlace s)
    (hlen : v.length = s.msgLen.toNat) : adNibbles (sealedState v tag s) = adNibbles s := by
  obtain ⟨hptr, hdisj⟩ := hin
  refine nibRead_congr fun x hx => bufByte_sealedState_outside tag hlen fun hmsg => ?_
  rw [hptr] at hmsg
  exact hdisj x hmsg hx

/-- An output region that is the message region reads back what an output of the message's length wrote.
-/
theorem nibRead_writeOutput_inPlace {v : List Nibble} {s : State} (hptr : s.outPtr = s.msgPtr)
    (hlen : v.length = s.msgLen.toNat) :
    nibRead (writeOutput v s) s.msgPtr.toNat s.msgLen.toNat = v := by
  rw [writeOutput, hptr, ← hlen, nibRead_nibWrite]

/-- The message of the command that follows is the output. -/
theorem msgNibbles_sealedState {v : List Nibble} {s : State} (tag : Vector Word 4) (hin : InPlace s)
    (hlen : v.length = s.msgLen.toNat) : msgNibbles (sealedState v tag s) = v :=
  nibRead_writeOutput_inPlace hin.1 hlen

/-- A command that seals in place, followed by one that writes the message back, restores BUF: each
changes the message region only, and the second leaves the message in it. -/
theorem inPlace_roundTrip {enc dec : Instr} {v : List Nibble} {tag : Vector Word 4} {s : State}
    (hin : InPlace s) (hlen : v.length = s.msgLen.toNat)
    (henc : exec enc s = .next (sealedState v tag s))
    (hdec : exec dec (sealedState v tag s) =
      succeed (writeOutput (msgNibbles s) (sealedState v tag s))) :
    ∃ t u, exec enc s = .next t ∧ exec dec t = .next u ∧ u.err = .ok ∧
      nibRead u s.msgPtr.toNat s.msgLen.toNat = nibRead s s.msgPtr.toNat s.msgLen.toNat ∧
      ∀ a, ¬ inNibRegion s.msgPtr.toNat s.msgLen.toNat a → bufByte u a = bufByte s a := by
  obtain ⟨hptr, -⟩ := hin
  refine ⟨_, _, henc, hdec, rfl, ?_, fun a ha => ?_⟩
  · exact nibRead_writeOutput_inPlace (s := sealedState v tag s) hptr (length_msgNibbles s)
  · rw [← hptr] at ha
    calc bufByte (writeOutput (msgNibbles s) (sealedState v tag s)) a
      _ = bufByte (sealedState v tag s) a := bufByte_writeOutput_outside (length_msgNibbles s) ha
      _ = bufByte s a := bufByte_sealedState_outside tag hlen ha

/-! ### The tag registers -/

/-- A 128-bit value written to four registers reads back (20_memory.md R202). -/
theorem tag128_setTag128 (t : Block) (s : State) : tag128 (setTag128 t s) = t := by
  change t.extractLsb' 96 32 ++ t.extractLsb' 64 32 ++ t.extractLsb' 32 32 ++ t.extractLsb' 0 32 = t
  rw [BitVec.extractLsb'_append_extractLsb'_eq_extractLsb',
    BitVec.extractLsb'_append_extractLsb'_eq_extractLsb',
    BitVec.extractLsb'_append_extractLsb'_eq_extractLsb', BitVec.extractLsb'_eq_self]
  all_goals rfl

/-- A 64-bit value written to two registers reads back (20_memory.md R202). -/
theorem tag64_setTag64 (t : BitVec 64) (s : State) : tag64 (setTag64 t s) = t := by
  change t.extractLsb' 32 32 ++ t.extractLsb' 0 32 = t
  rw [BitVec.extractLsb'_append_extractLsb'_eq_extractLsb', BitVec.extractLsb'_eq_self]
  rfl

/-- A tag of the member's width is the tag that the member's decryption expects (45_skinny_aead.md R900).
-/
theorem expectedSkaeadTag_setSkaeadTag (member : Member) (t : Block) (s : State) :
    expectedSkaeadTag member (setSkaeadTag (skaeadTruncate member t) s) =
      skaeadTruncate member t := by
  cases member with
  | m1 | m2 => exact congrArg SkaeadTag.full (tag128_setTag128 t s)
  | m3 | m4 => exact congrArg SkaeadTag.short (tag64_setTag64 _ s)

/-! ### The AEAD commands when they succeed -/

theorem exec_cofbEnc_of_fit {s : State} (hfit : regionsOk s = true) {r : List Nibble × Block}
    (hr : cofbEncrypt s.params.bsLoading (key128 s) (nonce128 s) (adNibbles s) (msgNibbles s) = r) :
    exec .cofbEnc s = .next (sealedState r.1 (setTag128 r.2 s).tag s) := by
  subst hr
  exact if_pos hfit

theorem exec_cofbDec_of_auth {s : State} (hfit : regionsOk s = true) {m : List Nibble}
    (hr : cofbDecrypt s.params.bsLoading (key128 s) (nonce128 s) (adNibbles s) (msgNibbles s) =
      (m, tag128 s)) : exec .cofbDec s = succeed (writeOutput m s) := by
  rw [exec, execCofbDec, if_pos hfit, hr]
  exact if_pos rfl

theorem exec_skaeadEnc_of_fit {s : State} (member : Member) (hfit : regionsOk s = true)
    {r : List Nibble × SkaeadTag}
    (hr : skaeadEncrypt s.params.memberBits s.params.tagRule member (key128 s) (nonce128 s)
      (adNibbles s) (msgNibbles s) = r) :
    exec (.skaeadEnc member) s = .next (sealedState r.1 (setSkaeadTag r.2 s).tag s) := by
  rw [exec, execSkaeadEnc, if_pos hfit, hr]
  obtain ⟨v, tag⟩ := r
  cases tag <;> rfl

theorem exec_skaeadDec_of_auth {s : State} (member : Member) (hfit : regionsOk s = true) {m : List Nibble}
    (hr : skaeadDecrypt s.params.memberBits s.params.tagRule member (key128 s) (nonce128 s)
      (adNibbles s) (msgNibbles s) = (m, expectedSkaeadTag member s)) :
    exec (.skaeadDec member) s = succeed (writeOutput m s) := by
  rw [exec, execSkaeadDec, if_pos hfit, hr]
  exact if_pos rfl

end Sys2Proof.Machine
end

section
/-! PROOFS. The AEAD commands in place (20_memory.md R222). -/

namespace Sys2Proof.Machine

open Sys2Proof

/-- Settles O54: the decryption reads the same associated data, the ciphertext and its tag. -/
theorem cofbInPlaceRoundTrip : Obligations.CofbInPlaceRoundTrip := by
  intro s hfit hin
  have hok : regionsOk s = true := (regionsOk_iff s).mpr hfit
  obtain ⟨r, hr⟩ : ∃ r, cofbEncrypt s.params.bsLoading (key128 s) (nonce128 s) (adNibbles s)
    (msgNibbles s) = r := ⟨_, rfl⟩
  have hlen : r.1.length = s.msgLen.toNat := by
    rw [← hr, length_cofbEncrypt, length_msgNibbles]
  refine inPlace_roundTrip hin hlen (exec_cofbEnc_of_fit hok hr)
    (exec_cofbDec_of_auth (s := sealedState r.1 (setTag128 r.2 s).tag s) hok ?_)
  rw [adNibbles_sealedState _ hin hlen, msgNibbles_sealedState _ hin hlen]
  have htag : tag128 (sealedState r.1 (setTag128 r.2 s).tag s) = r.2 := tag128_setTag128 r.2 s
  rw [htag, ← hr]
  exact cofbDecrypt_cofbEncrypt s.params.bsLoading (key128 s) (nonce128 s) (adNibbles s) (msgNibbles s)

/-- Settles O59: the same, with the tag compared on the member's width. -/
theorem skinnyAeadInPlaceRoundTrip : Obligations.SkinnyAeadInPlaceRoundTrip := by
  intro s member hfit hin
  have hok : regionsOk s = true := (regionsOk_iff s).mpr hfit
  obtain ⟨r, hr⟩ : ∃ r, skaeadEncrypt s.params.memberBits s.params.tagRule member (key128 s)
    (nonce128 s) (adNibbles s) (msgNibbles s) = r := ⟨_, rfl⟩
  have hlen : r.1.length = s.msgLen.toNat := by
    rw [← hr, length_skaeadEncrypt, length_msgNibbles]
  refine inPlace_roundTrip hin hlen (exec_skaeadEnc_of_fit member hok hr)
    (exec_skaeadDec_of_auth (s := sealedState r.1 (setSkaeadTag r.2 s).tag s) member hok ?_)
  rw [adNibbles_sealedState _ hin hlen, msgNibbles_sealedState _ hin hlen]
  have htag : expectedSkaeadTag member (sealedState r.1 (setSkaeadTag r.2 s).tag s) = r.2 := by
    rw [← hr]
    exact expectedSkaeadTag_setSkaeadTag member _ s
  rw [htag, ← hr]
  exact skaeadDecrypt_skaeadEncrypt s.params.memberBits s.params.tagRule member (key128 s)
    (nonce128 s) (adNibbles s) (msgNibbles s)

end Sys2Proof.Machine
end

section
/-! SUPPORT. The fields of a command word (30_encoding.md R300): a word is its fields, and what a row of the
opcode map (R310) says of them. -/

namespace Sys2Proof

/-! ### A word is its fields -/

/-- The seven parts of R300, the two reserved ones among them, put together again. -/
theorem append_fields_eq (w : Word) :
    w.extractLsb' 22 10 ++ fieldMember w ++ w.extractLsb' 19 1 ++ w.extractLsb' 18 1 ++ fieldZ w ++
      fieldRounds w ++ fieldOp w = w := by
  simp only [fieldMember, fieldZ, fieldRounds, fieldOp]
  rw [BitVec.extractLsb'_append_extractLsb'_eq_extractLsb',
    BitVec.extractLsb'_append_extractLsb'_eq_extractLsb',
    BitVec.extractLsb'_append_extractLsb'_eq_extractLsb',
    BitVec.extractLsb'_append_extractLsb'_eq_extractLsb',
    BitVec.extractLsb'_append_extractLsb'_eq_extractLsb',
    BitVec.extractLsb'_append_extractLsb'_eq_extractLsb', BitVec.extractLsb'_eq_self]
  all_goals rfl

theorem extractLsb'_one (w : Word) (i : Nat) : w.extractLsb' i 1 = BitVec.ofBool (w.getLsbD i) := by
  apply BitVec.eq_of_getLsbD_eq
  intro j hj
  obtain rfl : j = 0 := by omega
  simp

/-- Two words with equal fields are equal. -/
theorem word_eq_iff_fields (v w : Word) :
    v = w ↔ fieldOp v = fieldOp w ∧ fieldRounds v = fieldRounds w ∧ fieldZ v = fieldZ w ∧
      fieldBs v = fieldBs w ∧ v.getLsbD 19 = w.getLsbD 19 ∧ fieldMember v = fieldMember w ∧
      v.extractLsb' 22 10 = w.extractLsb' 22 10 := by
  constructor
  · rintro rfl
    exact ⟨rfl, rfl, rfl, rfl, rfl, rfl, rfl⟩
  · rintro ⟨hop, hrounds, hz, hbs, h19, hmember, hhigh⟩
    rw [← append_fields_eq v, ← append_fields_eq w]
    simp only [extractLsb'_one]
    rw [fieldBs, fieldBs] at hbs
    rw [hop, hrounds, hz, hbs, h19, hmember, hhigh]

section
variable (op rounds : BitVec 8) (z : BitVec 2) (bs : BitVec 1) (member : BitVec 2)

theorem fieldOp_commandWord : fieldOp (commandWord op rounds z bs member) = op :=
  BitVec.extractLsb'_append_eq_right

theorem fieldRounds_commandWord : fieldRounds (commandWord op rounds z bs member) = rounds := by
  rw [fieldRounds, commandWord, BitVec.extractLsb'_append_eq_of_le (by decide)]
  exact BitVec.extractLsb'_append_eq_right

theorem fieldZ_commandWord : fieldZ (commandWord op rounds z bs member) = z := by
  rw [fieldZ, commandWord, BitVec.extractLsb'_append_eq_of_le (by decide),
    BitVec.extractLsb'_append_eq_of_le (by decide)]
  exact BitVec.extractLsb'_append_eq_right

theorem fieldBs_commandWord : fieldBs (commandWord op rounds z bs member) = bs.getLsbD 0 := by
  simp only [fieldBs, commandWord, BitVec.getLsbD_append]
  rfl

theorem getLsbD_19_commandWord : (commandWord op rounds z bs member).getLsbD 19 = false := by
  simp only [commandWord, BitVec.getLsbD_append]
  rfl

theorem fieldMember_commandWord : fieldMember (commandWord op rounds z bs member) = member := by
  rw [fieldMember, commandWord]
  repeat rw [BitVec.extractLsb'_append_eq_of_le (by decide)]
  exact BitVec.extractLsb'_append_eq_right

theorem extractLsb'_22_commandWord :
    (commandWord op rounds z bs member).extractLsb' 22 10 = 0#10 := by
  rw [commandWord]
  repeat rw [BitVec.extractLsb'_append_eq_of_le (by decide)]
  exact BitVec.extractLsb'_eq_self

end

/-! ### Masks -/

/-- What `w & mask = match` says of each field, for a match that holds an OP and no other bit. -/
theorem and_eq_op_iff_fields (w mask : Word) (op : BitVec 8) :
    w &&& mask = 0#24 ++ op ↔ fieldOp w &&& fieldOp mask = op ∧
      fieldRounds w &&& fieldRounds mask = 0#8 ∧ fieldZ w &&& fieldZ mask = 0#2 ∧
      (fieldBs w && fieldBs mask) = false ∧ (w.getLsbD 19 && mask.getLsbD 19) = false ∧
      fieldMember w &&& fieldMember mask = 0#2 ∧
      w.extractLsb' 22 10 &&& mask.extractLsb' 22 10 = 0#10 := by
  have hop : (0#24 ++ op : Word) = commandWord op 0#8 0#2 0#1 0#2 := by
    simp [commandWord]
  rw [hop, word_eq_iff_fields, fieldOp_commandWord, fieldRounds_commandWord, fieldZ_commandWord,
    fieldBs_commandWord, getLsbD_19_commandWord, fieldMember_commandWord, extractLsb'_22_commandWord]
  simp only [fieldOp, fieldRounds, fieldZ, fieldBs, fieldMember, BitVec.extractLsb'_and,
    BitVec.getLsbD_and]
  simp

/-- The OP values that use BS, Z and ROUNDS (30_encoding.md R301-R303). -/
abbrev skinnyOps : List (BitVec 8) := [0x20#8, 0x21#8]

/-- The OP values that use MEMBER (30_encoding.md R304). -/
abbrev skaeadOps : List (BitVec 8) := [0x40#8, 0x41#8]

/-- What rule R320 asks of a word beside a known OP: the reserved bits are 0, and so are the fields that
the OP does not use. -/
structure OtherBitsClear (w : Word) : Prop where
  bit19 : w.getLsbD 19 = false
  high : w.extractLsb' 22 10 = 0#10
  skinny : fieldOp w ∉ skinnyOps →
    fieldRounds w = 0#8 ∧ fieldZ w = 0#2 ∧ fieldBs w = false
  skaead : fieldOp w ∉ skaeadOps → fieldMember w = 0#2

theorem otherBitsClear_iff (w : Word) : OtherBitsClear w ↔
    w.getLsbD 19 = false ∧ w.extractLsb' 22 10 = 0#10 ∧
    (fieldOp w ∉ skinnyOps → fieldRounds w = 0#8 ∧ fieldZ w = 0#2 ∧ fieldBs w = false) ∧
    (fieldOp w ∉ skaeadOps → fieldMember w = 0#2) :=
  ⟨fun ⟨a, b, c, d⟩ => ⟨a, b, c, d⟩, fun ⟨a, b, c, d⟩ => ⟨a, b, c, d⟩⟩

theorem not_otherBitsClear_iff (w : Word) : ¬ OtherBitsClear w ↔
    w.getLsbD 19 = true ∨ w.extractLsb' 22 10 ≠ 0#10 ∨
    (fieldOp w ∉ skinnyOps ∧ (fieldRounds w ≠ 0#8 ∨ fieldZ w ≠ 0#2 ∨ fieldBs w = true)) ∨
    (fieldOp w ∉ skaeadOps ∧ fieldMember w ≠ 0#2) := by
  rw [otherBitsClear_iff]
  simp only [not_and_or, Classical.not_imp, Bool.not_eq_false, ne_eq]

/-- A row's match holds its OP only, and its mask all bits but the fields that the OP uses. -/
theorem opRows_fields : ∀ r ∈ opRows,
    r.pattern = 0#24 ++ fieldOp r.pattern ∧ fieldOp r.mask = BitVec.allOnes 8 ∧
    fieldRounds r.mask =
      (if fieldOp r.pattern ∈ skinnyOps then 0#8 else BitVec.allOnes 8) ∧
    fieldZ r.mask = (if fieldOp r.pattern ∈ skinnyOps then 0#2 else BitVec.allOnes 2) ∧
    fieldBs r.mask = decide (fieldOp r.pattern ∉ skinnyOps) ∧ r.mask.getLsbD 19 = true ∧
    fieldMember r.mask =
      (if fieldOp r.pattern ∈ skaeadOps then 0#2 else BitVec.allOnes 2) ∧
    r.mask.extractLsb' 22 10 = BitVec.allOnes 10 := by
  decide

/-- A mask that covers a field unless `p` asks that the field be 0 unless `p`. -/
theorem and_ite_eq_zero_iff {n : Nat} (p : Prop) [Decidable p] (x : BitVec n) :
    x &&& (if p then 0#n else BitVec.allOnes n) = 0#n ↔ (¬ p → x = 0#n) := by
  by_cases h : p <;> simp [h]

theorem and_decide_not_eq_false_iff (p : Prop) [Decidable p] (b : Bool) :
    (b && decide (¬ p)) = false ↔ (¬ p → b = false) := by
  by_cases h : p <;> simp [h]

/-- A word selects a row if and only if it has the row's OP and no bit that the OP does not use. -/
theorem selects_iff {r : OpRow} (hr : r ∈ opRows) (w : Word) :
    r.selects w = true ↔ fieldOp w = fieldOp r.pattern ∧ OtherBitsClear w := by
  obtain ⟨hpattern, hop, hrounds, hz, hbs, h19, hmember, hhigh⟩ := opRows_fields r hr
  rw [OpRow.selects, beq_iff_eq, hpattern, and_eq_op_iff_fields, ← hpattern, otherBitsClear_iff,
    hop, hrounds, hz, hbs, h19, hmember, hhigh, BitVec.and_allOnes, BitVec.and_allOnes,
    Bool.and_true]
  refine and_congr_right fun h => ?_
  rw [h, and_ite_eq_zero_iff, and_ite_eq_zero_iff, and_ite_eq_zero_iff, and_decide_not_eq_false_iff]
  tauto

/-! ### The rows do not overlap (30_encoding.md R311) -/

theorem rowOps_eq : (opRows.map fun r => fieldOp r.pattern) =
    [0x00#8, 0x01#8, 0x10#8, 0x11#8, 0x12#8, 0x13#8, 0x14#8, 0x15#8, 0x20#8, 0x21#8, 0x30#8, 0x31#8,
      0x40#8, 0x41#8] := rfl

theorem nodup_rowOps : (opRows.map fun r => fieldOp r.pattern).Nodup := by decide

/-- No word selects two rows: it has the OP of each. -/
theorem eq_of_selects {r q : OpRow} (hr : r ∈ opRows) (hq : q ∈ opRows) {w : Word}
    (hrw : r.selects w = true) (hqw : q.selects w = true) : r = q :=
  List.inj_on_of_nodup_map nodup_rowOps hr hq
    (((selects_iff hr w).mp hrw).1.symm.trans ((selects_iff hq w).mp hqw).1)

/-- R320: no row is selected if and only if the OP is unknown or a bit beside it is wrong. -/
theorem noRow_iff (w : Word) : (∀ r ∈ opRows, r.selects w = false) ↔
    ¬ (fieldOp w ∈ opRows.map (fun r => fieldOp r.pattern) ∧ OtherBitsClear w) := by
  rw [List.mem_map]
  constructor
  · rintro h ⟨⟨r, hr, hop⟩, hclear⟩
    have hsel := (selects_iff hr w).mpr ⟨hop.symm, hclear⟩
    rw [h r hr] at hsel
    cases hsel
  · intro h r hr
    rw [Bool.eq_false_iff]
    intro hsel
    obtain ⟨hop, hclear⟩ := (selects_iff hr w).mp hsel
    exact h ⟨⟨r, hr, hop.symm⟩, hclear⟩

end Sys2Proof
end

section
/-! SUPPORT. The decoder as a lookup in the opcode map, and the encoder as its inverse
(30_encoding.md R310, R320). -/

namespace Sys2Proof

/-- The rows of R310 in the decoder's order, each with how its instruction is read from the word. -/
def decodeTable : List (OpRow × (Word → Instr)) :=
  [(rowNop, fun _ => .nop), (rowClear, fun _ => .clear), (rowGift64Enc, fun _ => .gift64Enc),
    (rowGift64Dec, fun _ => .gift64Dec), (rowGift128Enc, fun _ => .gift128Enc),
    (rowGift128Dec, fun _ => .gift128Dec), (rowGift128bsEnc, fun _ => .gift128bsEnc),
    (rowGift128bsDec, fun _ => .gift128bsDec),
    (rowSkinnyEnc, fun w =>
      .skinnyEnc (blockSizeOfBs (fieldBs w)) (fieldZ w).toNat (fieldRounds w).toNat),
    (rowSkinnyDec, fun w =>
      .skinnyDec (blockSizeOfBs (fieldBs w)) (fieldZ w).toNat (fieldRounds w).toNat),
    (rowCofbEnc, fun _ => .cofbEnc), (rowCofbDec, fun _ => .cofbDec),
    (rowSkaeadEnc, fun w => .skaeadEnc (memberOfField (fieldMember w))),
    (rowSkaeadDec, fun w => .skaeadDec (memberOfField (fieldMember w)))]

theorem map_fst_decodeTable : decodeTable.map Prod.fst = opRows := rfl

theorem fst_mem_opRows {p : OpRow × (Word → Instr)} (hp : p ∈ decodeTable) : p.1 ∈ opRows :=
  map_fst_decodeTable ▸ List.mem_map_of_mem hp

/-- The instruction of the first row of a table that the word selects. -/
def lookupRow (w : Word) : List (OpRow × (Word → Instr)) → Except DecodeError Instr
  | [] => .error (illegalCause w)
  | p :: rest => if p.1.selects w then .ok (p.2 w) else lookupRow w rest

theorem decode_eq_lookupRow (w : Word) : decode w = lookupRow w decodeTable := rfl

/-- What a lookup can answer: the instruction of a row that the word selects, or that there is none. -/
theorem lookupRow_cases (w : Word) (table : List (OpRow × (Word → Instr))) :
    (∃ p ∈ table, p.1.selects w = true ∧ lookupRow w table = .ok (p.2 w)) ∨
    ((∀ p ∈ table, p.1.selects w = false) ∧ lookupRow w table = .error (illegalCause w)) := by
  induction table with
  | nil => exact .inr ⟨nofun, rfl⟩
  | cons p rest ih =>
    rw [lookupRow]
    by_cases hp : p.1.selects w = true
    · exact .inl ⟨p, List.mem_cons_self, hp, if_pos hp⟩
    · rw [if_neg hp]
      obtain ⟨q, hq, hanswer⟩ | ⟨hnone, hanswer⟩ := ih
      · exact .inl ⟨q, List.mem_cons_of_mem p hq, hanswer⟩
      · exact .inr ⟨List.forall_mem_cons.mpr ⟨Bool.eq_false_iff.mpr hp, hnone⟩, hanswer⟩

/-- What the decoder can answer (30_encoding.md R310, R320). -/
theorem decode_cases (w : Word) :
    (∃ p ∈ decodeTable, p.1.selects w = true ∧ decode w = .ok (p.2 w)) ∨
    ((∀ r ∈ opRows, r.selects w = false) ∧ decode w = .error (illegalCause w)) := by
  rw [← map_fst_decodeTable, List.forall_mem_map, decode_eq_lookupRow]
  exact lookupRow_cases w decodeTable

theorem decode_of_selects {p : OpRow × (Word → Instr)} (hp : p ∈ decodeTable) {w : Word}
    (hsel : p.1.selects w = true) : decode w = .ok (p.2 w) := by
  obtain ⟨q, hq, hqsel, hdecode⟩ | ⟨hnone, -⟩ := decode_cases w
  · have hrows : (decodeTable.map Prod.fst).Nodup := nodup_rowOps.of_map _
    have heq : q = p := List.inj_on_of_nodup_map hrows hq hp
      (eq_of_selects (fst_mem_opRows hq) (fst_mem_opRows hp) hqsel hsel)
    rw [hdecode, heq]
  · rw [hnone p.1 (fst_mem_opRows hp)] at hsel
    cases hsel

theorem decode_illegal {w : Word}
    (h : ¬ (fieldOp w ∈ opRows.map (fun r => fieldOp r.pattern) ∧ OtherBitsClear w)) :
    ∃ e, decode w = .error e := by
  obtain ⟨p, hp, hsel, -⟩ | ⟨-, herr⟩ := decode_cases w
  · rw [(noRow_iff w).mpr h p.1 (fst_mem_opRows hp)] at hsel
    cases hsel
  · exact ⟨_, herr⟩

/-! ### The rows that have operands -/

theorem rowSkinnyEnc_mem : (rowSkinnyEnc, fun w =>
    .skinnyEnc (blockSizeOfBs (fieldBs w)) (fieldZ w).toNat (fieldRounds w).toNat) ∈ decodeTable :=
  List.mem_of_getElem? (i := 8) rfl

theorem rowSkinnyDec_mem : (rowSkinnyDec, fun w =>
    .skinnyDec (blockSizeOfBs (fieldBs w)) (fieldZ w).toNat (fieldRounds w).toNat) ∈ decodeTable :=
  List.mem_of_getElem? (i := 9) rfl

theorem rowSkaeadEnc_mem :
    (rowSkaeadEnc, fun w => .skaeadEnc (memberOfField (fieldMember w))) ∈ decodeTable :=
  List.mem_of_getElem? (i := 12) rfl

theorem rowSkaeadDec_mem :
    (rowSkaeadDec, fun w => .skaeadDec (memberOfField (fieldMember w))) ∈ decodeTable :=
  List.mem_of_getElem? (i := 13) rfl

/-! ### Legal words are encodings -/

/-- A word whose reserved bits are 0 is the command word of its fields. -/
theorem OtherBitsClear.eq_commandWord {w : Word} (h : OtherBitsClear w) :
    w = commandWord (fieldOp w) (fieldRounds w) (fieldZ w) (BitVec.ofBool (fieldBs w))
      (fieldMember w) := by
  rw [word_eq_iff_fields, fieldOp_commandWord, fieldRounds_commandWord, fieldZ_commandWord,
    fieldBs_commandWord, getLsbD_19_commandWord, fieldMember_commandWord, extractLsb'_22_commandWord]
  exact ⟨rfl, rfl, rfl, by simp, h.bit19, rfl, h.high⟩

/-- A word of a row whose OP uses no field. -/
theorem eq_opWord_of_selects {r : OpRow} (hr : r ∈ opRows)
    (hskinny : fieldOp r.pattern ∉ skinnyOps) (hskaead : fieldOp r.pattern ∉ skaeadOps)
    {w : Word} (hsel : r.selects w = true) : w = opWord (fieldOp r.pattern) := by
  obtain ⟨hop, hclear⟩ := (selects_iff hr w).mp hsel
  obtain ⟨hrounds, hz, hbs⟩ := hclear.skinny (hop ▸ hskinny)
  have hw := hclear.eq_commandWord
  rwa [hop, hrounds, hz, hbs, hclear.skaead (hop ▸ hskaead)] at hw

/-- A word of a SKINNY row. -/
theorem eq_skinnyWord_of_selects {r : OpRow} (hr : r ∈ opRows)
    (hskaead : fieldOp r.pattern ∉ skaeadOps) {w : Word} (hsel : r.selects w = true) :
    w = commandWord (fieldOp r.pattern) (fieldRounds w) (fieldZ w) (BitVec.ofBool (fieldBs w)) 0#2 := by
  obtain ⟨hop, hclear⟩ := (selects_iff hr w).mp hsel
  have hw := hclear.eq_commandWord
  rwa [hop, hclear.skaead (hop ▸ hskaead)] at hw

/-- A word of a SKINNY-AEAD row. -/
theorem eq_skaeadWord_of_selects {r : OpRow} (hr : r ∈ opRows)
    (hskinny : fieldOp r.pattern ∉ skinnyOps) {w : Word} (hsel : r.selects w = true) :
    w = commandWord (fieldOp r.pattern) 0#8 0#2 0#1 (fieldMember w) := by
  obtain ⟨hop, hclear⟩ := (selects_iff hr w).mp hsel
  obtain ⟨hrounds, hz, hbs⟩ := hclear.skinny (hop ▸ hskinny)
  have hw := hclear.eq_commandWord
  rwa [hop, hrounds, hz, hbs] at hw

/-! ### Operands and their fields -/

theorem bsOfBlockSize_blockSizeOfBs (bs : Bool) :
    bsOfBlockSize (blockSizeOfBs bs) = BitVec.ofBool bs := by
  cases bs <;> rfl

theorem blockSizeOfBs_bsOfBlockSize (n : BlockSize) :
    blockSizeOfBs ((bsOfBlockSize n).getLsbD 0) = n := by
  cases n <;> rfl

theorem fieldOfMember_memberOfField (m : BitVec 2) : fieldOfMember (memberOfField m) = m := by
  revert m; decide

theorem memberOfField_fieldOfMember (member : Member) :
    memberOfField (fieldOfMember member) = member := by
  cases member <;> rfl

theorem skinny_wf (w : Word) : (zFits (fieldZ w).toNat && roundsFit (fieldRounds w).toNat) = true := by
  rw [Bool.and_eq_true, zFits, roundsFit, decide_eq_true_eq, decide_eq_true_eq]
  exact ⟨(fieldZ w).isLt, (fieldRounds w).isLt⟩

/-- A row whose OP uses no field reads one instruction, whose word is the row's match. -/
theorem plain_row_reads_encoding {r : OpRow} {i : Instr}
    (h : r ∈ opRows ∧ fieldOp r.pattern ∉ skinnyOps ∧ fieldOp r.pattern ∉ skaeadOps ∧
      i.wf = true ∧ encode i = opWord (fieldOp r.pattern)) (w : Word) (hsel : r.selects w = true) :
    i.wf = true ∧ encode i = w := by
  obtain ⟨hr, hskinny, hskaead, hwf, henc⟩ := h
  exact ⟨hwf, henc.trans (eq_opWord_of_selects hr hskinny hskaead hsel).symm⟩

/-- The SKINNY word of what a SKINNY row reads from `w` is `w`. -/
theorem skinny_row_reads_encoding {r : OpRow} (hr : r ∈ opRows)
    (hskaead : fieldOp r.pattern ∉ skaeadOps) {w : Word} (hsel : r.selects w = true) :
    commandWord (fieldOp r.pattern) (BitVec.ofNat 8 (fieldRounds w).toNat)
      (BitVec.ofNat 2 (fieldZ w).toNat) (bsOfBlockSize (blockSizeOfBs (fieldBs w))) 0#2 = w := by
  rw [BitVec.ofNat_toNat, BitVec.ofNat_toNat, BitVec.setWidth_eq, BitVec.setWidth_eq,
    bsOfBlockSize_blockSizeOfBs]
  exact (eq_skinnyWord_of_selects hr hskaead hsel).symm

/-- The SKINNY-AEAD word of what a SKINNY-AEAD row reads from `w` is `w`. -/
theorem skaead_row_reads_encoding {r : OpRow} (hr : r ∈ opRows)
    (hskinny : fieldOp r.pattern ∉ skinnyOps) {w : Word} (hsel : r.selects w = true) :
    commandWord (fieldOp r.pattern) 0#8 0#2 0#1 (fieldOfMember (memberOfField (fieldMember w))) =
      w := by
  rw [fieldOfMember_memberOfField]
  exact (eq_skaeadWord_of_selects hr hskinny hsel).symm

/-- What a row reads from a word that selects it is well-formed and has that word. -/
theorem row_reads_encoding : ∀ p ∈ decodeTable, ∀ w, p.1.selects w = true →
    (p.2 w).wf = true ∧ encode (p.2 w) = w := by
  simp only [decodeTable, List.forall_mem_cons]
  refine ⟨plain_row_reads_encoding (by decide), plain_row_reads_encoding (by decide),
    plain_row_reads_encoding (by decide), plain_row_reads_encoding (by decide),
    plain_row_reads_encoding (by decide), plain_row_reads_encoding (by decide),
    plain_row_reads_encoding (by decide), plain_row_reads_encoding (by decide),
    fun w hsel => ⟨skinny_wf w, skinny_row_reads_encoding (by decide) (by decide) hsel⟩,
    fun w hsel => ⟨skinny_wf w, skinny_row_reads_encoding (by decide) (by decide) hsel⟩,
    plain_row_reads_encoding (by decide), plain_row_reads_encoding (by decide),
    fun w hsel => ⟨rfl, skaead_row_reads_encoding (by decide) (by decide) hsel⟩,
    fun w hsel => ⟨rfl, skaead_row_reads_encoding (by decide) (by decide) hsel⟩, nofun⟩

/-- The operands that a SKINNY word carries are read back. -/
theorem skinny_operands_commandWord (op : BitVec 8) (n : BlockSize) {z rounds : Nat}
    (h : (zFits z && roundsFit rounds) = true) :
    let w := commandWord op (BitVec.ofNat 8 rounds) (BitVec.ofNat 2 z) (bsOfBlockSize n) 0#2
    blockSizeOfBs (fieldBs w) = n ∧ (fieldZ w).toNat = z ∧ (fieldRounds w).toNat = rounds := by
  rw [Bool.and_eq_true, zFits, roundsFit, decide_eq_true_eq, decide_eq_true_eq] at h
  obtain ⟨hz, hrounds⟩ := h
  dsimp only
  rw [fieldBs_commandWord, fieldZ_commandWord, fieldRounds_commandWord, blockSizeOfBs_bsOfBlockSize]
  exact ⟨rfl, (BitVec.toNat_ofNat z _).trans (Nat.mod_eq_of_lt hz),
    (BitVec.toNat_ofNat rounds _).trans (Nat.mod_eq_of_lt hrounds)⟩

/-- The member that a SKINNY-AEAD word carries is read back. -/
theorem member_commandWord (op : BitVec 8) (member : Member) :
    memberOfField (fieldMember (commandWord op 0#8 0#2 0#1 (fieldOfMember member))) = member := by
  rw [fieldMember_commandWord, memberOfField_fieldOfMember]

/-- The row of a well-formed instruction reads the instruction from its word. -/
theorem exists_reading_of_encode {i : Instr} (hwf : i.wf = true) :
    ∃ f, (i.row, f) ∈ decodeTable ∧ f (encode i) = i := by
  cases i with
  | nop | clear | gift64Enc | gift64Dec | gift128Enc | gift128Dec | gift128bsEnc | gift128bsDec
  | cofbEnc | cofbDec =>
    exact ⟨fun _ => _, by simp [decodeTable, Instr.row], rfl⟩
  | skinnyEnc n z rounds =>
    refine ⟨_, rowSkinnyEnc_mem, ?_⟩
    obtain ⟨hn, hz, hrounds⟩ := skinny_operands_commandWord 0x20#8 n hwf
    simp only [encode, hn, hz, hrounds]
  | skinnyDec n z rounds =>
    refine ⟨_, rowSkinnyDec_mem, ?_⟩
    obtain ⟨hn, hz, hrounds⟩ := skinny_operands_commandWord 0x21#8 n hwf
    simp only [encode, hn, hz, hrounds]
  | skaeadEnc member =>
    exact ⟨_, rowSkaeadEnc_mem, congrArg _ (member_commandWord 0x40#8 member)⟩
  | skaeadDec member =>
    exact ⟨_, rowSkaeadDec_mem, congrArg _ (member_commandWord 0x41#8 member)⟩

/-- The word of a well-formed instruction selects its row, by the law of each constructor. -/
theorem row_selects_encode (i : Instr) : Laws.EncodeSelectsRow.Statement i := by
  cases i with
  | nop => exact Laws.EncodeSelectsRow.nop
  | clear => exact Laws.EncodeSelectsRow.clear
  | gift64Enc => exact Laws.EncodeSelectsRow.gift64Enc
  | gift64Dec => exact Laws.EncodeSelectsRow.gift64Dec
  | gift128Enc => exact Laws.EncodeSelectsRow.gift128Enc
  | gift128Dec => exact Laws.EncodeSelectsRow.gift128Dec
  | gift128bsEnc => exact Laws.EncodeSelectsRow.gift128bsEnc
  | gift128bsDec => exact Laws.EncodeSelectsRow.gift128bsDec
  | skinnyEnc n z rounds => exact Laws.EncodeSelectsRow.skinnyEnc n z rounds
  | skinnyDec n z rounds => exact Laws.EncodeSelectsRow.skinnyDec n z rounds
  | cofbEnc => exact Laws.EncodeSelectsRow.cofbEnc
  | cofbDec => exact Laws.EncodeSelectsRow.cofbDec
  | skaeadEnc member => exact Laws.EncodeSelectsRow.skaeadEnc member
  | skaeadDec member => exact Laws.EncodeSelectsRow.skaeadDec member

end Sys2Proof
end

section
/-! SUPPORT. Which commands end with ILLEGAL (30_encoding.md R320, 60_exceptions.md R1102). -/

namespace Sys2Proof.Machine

open Sys2Proof

theorem err_of_succeed {s t : State} (h : succeed s = .next t) : t.err = .ok :=
  congrArg State.err ((succeed_eq_next s t).mp h)

theorem err_of_raiseErr {code : ErrCode} {s t : State} (h : raiseErr code s = .next t) :
    t.err = code :=
  congrArg State.err ((raiseErr_eq_next code s t).mp h)

/-- No decoded command ends with ILLEGAL (60_exceptions.md R1102). -/
theorem err_ne_illegal_of_exec {i : Instr} {s t : State} (h : exec i s = .next t) :
    t.err ≠ .illegal := by
  cases i with
  | nop | clear | gift64Enc | gift64Dec | gift128Enc | gift128Dec | gift128bsEnc | gift128bsDec =>
    exact err_of_succeed h ▸ nofun
  | skinnyEnc | skinnyDec =>
    simp only [exec, execSkinnyEnc, execSkinnyDec] at h
    split at h
    · exact err_of_raiseErr h ▸ nofun
    · exact err_of_succeed h ▸ nofun
  | cofbEnc | skaeadEnc =>
    simp only [exec, execCofbEnc, execSkaeadEnc] at h
    split at h
    · exact err_of_succeed h ▸ nofun
    · exact err_of_raiseErr h ▸ nofun
  | cofbDec | skaeadDec =>
    simp only [exec, execCofbDec, execSkaeadDec] at h
    split at h
    · split at h
      · exact err_of_succeed h ▸ nofun
      · exact err_of_raiseErr h ▸ nofun
    · exact err_of_raiseErr h ▸ nofun

/-- What a command in flight ends with, by whether its word is legal (30_encoding.md R320). -/
theorem completeTurn_by_legality {s : State} {w : Word} (hs : s.seq = .busy w) :
    ∃ t, completeTurn s = .next t ∧ (t.err = .illegal ↔ ∀ r ∈ opRows, r.selects w = false) ∧
      (t.err = .illegal → t = complete .illegal s) := by
  obtain ⟨p, hp, hsel, hdecode⟩ | ⟨hnone, herr⟩ := decode_cases w
  · obtain ⟨t, ht, -⟩ := exec_ends (p.2 w) s
    have hne := err_ne_illegal_of_exec ht
    refine ⟨t, (completeTurn_decoded hs hdecode).trans ht, iff_of_false hne fun hnone => ?_,
      fun h => absurd h hne⟩
    rw [hnone p.1 (fst_mem_opRows hp)] at hsel
    cases hsel
  · exact ⟨_, completeTurn_illegal hs herr, iff_of_true rfl hnone, fun _ => rfl⟩

end Sys2Proof.Machine
end

section
/-! PROOFS. The encoding (30_encoding.md). -/

namespace Sys2Proof.Machine

open Sys2Proof

/-- Settles O1: the word selects the instruction's row, which reads the instruction back. -/
theorem decodeEncodeAgree : Obligations.DecodeEncodeAgree := by
  intro i hwf
  obtain ⟨f, hf, hread⟩ := exists_reading_of_encode hwf
  exact (decode_of_selects hf (row_selects_encode i hwf)).trans (congrArg Except.ok hread)

/-- Settles O2: the row that the word selects leaves no bit of it unread. -/
theorem decodedWordIsItsEncoding : Obligations.DecodedWordIsItsEncoding := by
  intro w i h
  obtain ⟨p, hp, hsel, hdecode⟩ | ⟨-, herr⟩ := decode_cases w
  · rw [hdecode] at h
    cases h
    exact row_reads_encoding p hp w hsel
  · rw [herr] at h
    cases h

/-- Settles O3: each word evaluated. -/
theorem sampleCommandWordsDecode : Obligations.SampleCommandWordsDecode := by
  unfold Obligations.SampleCommandWordsDecode
  decide

/-- Settles O4: a word that selects a row has the row's OP, and no two rows have one OP. -/
theorem opcodeRowsDoNotOverlap : Obligations.OpcodeRowsDoNotOverlap :=
  ⟨nodup_rowOps, by decide, fun _ _ hr _ hq => eq_of_selects hr hq⟩

/-- Settles O5: a legal word ends with another code, an illegal one with ILLEGAL alone. -/
theorem illegalExactlyWhenNoRow : Obligations.IllegalExactlyWhenNoRow := by
  intro s w hs
  obtain ⟨t, ht, hrows, hframe⟩ := completeTurn_by_legality hs
  refine ⟨t, ht, hrows, ?_, hframe⟩
  rw [hrows, noRow_iff, rowOps_eq, not_and_or, not_otherBitsClear_iff]

end Sys2Proof.Machine
end

section
/-! SUPPORT. The words of the SKINNY and SKINNY-AEAD rows (30_encoding.md R301-R304, R320). -/

namespace Sys2Proof

theorem selects_of_and_eq {r : OpRow} {w : Word} (h : w &&& r.mask = r.pattern) :
    r.selects w = true := beq_iff_eq.mpr h

theorem memberOfField_eq (m : BitVec 2) :
    memberOfField m = match m.toNat with | 0 => .m1 | 1 => .m2 | 2 => .m3 | _ => .m4 := by
  revert m; decide

/-- A 1 in a reserved bit makes any word illegal. -/
theorem decode_reserved {w : Word} (h : w.getLsbD 19 = true ∨ w.extractLsb' 22 10 ≠ 0#10) :
    ∃ e, decode w = .error e :=
  decode_illegal fun ⟨_, hclear⟩ =>
    h.elim (fun h19 => Bool.noConfusion (h19.symm.trans hclear.bit19)) (absurd hclear.high)

/-- CMD[19:8] of a command word with no SKINNY field. -/
theorem extractLsb'_8_commandWord (op : BitVec 8) (member : BitVec 2) :
    (commandWord op 0#8 0#2 0#1 member).extractLsb' 8 12 = 0#12 := by
  rw [commandWord, BitVec.extractLsb'_append_eq_of_le (by decide)]
  revert member
  decide

/-- A 1 beside OP and MEMBER makes a word illegal whose OP does not use the SKINNY fields. -/
theorem decode_skaead_illegal {w : Word} (hop : fieldOp w ∉ skinnyOps)
    (h : w.extractLsb' 8 12 ≠ 0#12 ∨ w.extractLsb' 22 10 ≠ 0#10) : ∃ e, decode w = .error e := by
  refine decode_illegal fun ⟨_, hclear⟩ => ?_
  obtain ⟨hrounds, hz, hbs⟩ := hclear.skinny hop
  have hw := hclear.eq_commandWord
  rw [hrounds, hz, hbs] at hw
  exact h.elim (fun h8 => h8 (hw ▸ extractLsb'_8_commandWord _ _)) (absurd hclear.high)

end Sys2Proof
end

section
/-! SUPPORT. What the SKINNY and SKINNY-AEAD commands leave (43_skinny.md R740, R741, 45_skinny_aead.md
R930, R931). -/

namespace Sys2Proof.Machine

open Sys2Proof

/-- Any command but CLEAR completes with its code and keeps its operands. -/
theorem Ends.completesWith {s t : State} {i : Instr} (h : Ends s i t) (hclear : i ≠ .clear) :
    CompletesWith t.err s t :=
  ⟨rfl, by cases h <;> rfl, by cases h <;> rfl, h.keepsOperands hclear⟩

theorem not_writesBuf_of_writesDout {i : Instr} (h : writesDout i = true) :
    writesBuf i = false := by
  cases i with
  | cofbEnc | cofbDec | skaeadEnc | skaeadDec => cases h
  | _ => rfl

/-- What every block-cipher command keeps. -/
theorem block_keeps {s t : State} {i : Instr} (h : exec i s = .next t) (hw : writesDout i = true) :
    CompletesWith t.err s t ∧ t.tag = s.tag ∧ KeepsBuf s t := by
  have hends := ends_of_exec h
  have hclear : i ≠ .clear := by rintro rfl; cases hw
  have hbuf : writesBuf i = false := not_writesBuf_of_writesDout hw
  have htag : writesTag i = false :=
    Bool.eq_false_iff.mpr fun ht => Bool.eq_false_iff.mp hbuf (writesBuf_of_writesTag ht)
  exact ⟨hends.completesWith hclear, hends.tag_eq hclear htag, hends.keepsBuf hclear hbuf⟩

/-! ### SKINNY -/

theorem quadBits_setDout128 (y : Block) (s : State) : quadBits (setDout128 y s).dout = y :=
  tag128_setTag128 y s

theorem pairBits_setDout64 (y : BitVec 64) (s : State) : pairBits (setDout64 y s).dout = y :=
  tag64_setTag64 y s

theorem exec_skinny_config (n : BlockSize) (rounds : Nat) (s : State) :
    exec (.skinnyEnc n 0 rounds) s = .next (complete .config s) ∧
    exec (.skinnyDec n 0 rounds) s = .next (complete .config s) := ⟨rfl, rfl⟩

theorem exec_skinnyEnc_of_pos (n : BlockSize) {z : Nat} (hz : 1 ≤ z) (rounds : Nat) (s : State) :
    exec (.skinnyEnc n z rounds) s = .next (complete .ok (setSkinnyOutput n
      (skinnyEncrypt n z (skinnyRounds n z rounds) (keyBits s) (skinnyInput n s)) s)) :=
  if_neg (Nat.ne_of_gt hz)

theorem exec_skinnyDec_of_pos (n : BlockSize) {z : Nat} (hz : 1 ≤ z) (rounds : Nat) (s : State) :
    exec (.skinnyDec n z rounds) s = .next (complete .ok (setSkinnyOutput n
      (skinnyDecrypt n z (skinnyRounds n z rounds) (keyBits s) (skinnyInput n s)) s)) :=
  if_neg (Nat.ne_of_gt hz)

/-- A SKINNY command that answers a block of 64 bits. -/
theorem skinny64_result {i : Instr} {s : State} {y : BitVec 64} (hw : writesDout i = true)
    (h : exec i s = .next (complete .ok (setDout64 y s))) :
    ∃ t, exec i s = .next t ∧ t.dout[0] ++ t.dout[1] = y ∧ t.dout[2] = 0#32 ∧ t.dout[3] = 0#32 ∧
      CompletesWith .ok s t ∧ t.tag = s.tag ∧ KeepsBuf s t :=
  ⟨_, h, pairBits_setDout64 y s, rfl, rfl, block_keeps h hw⟩

/-- A SKINNY command that answers a block of 128 bits. -/
theorem skinny128_result {i : Instr} {s : State} {y : Block} (hw : writesDout i = true)
    (h : exec i s = .next (complete .ok (setDout128 y s))) :
    ∃ t, exec i s = .next t ∧ t.dout[0] ++ t.dout[1] ++ t.dout[2] ++ t.dout[3] = y ∧
      CompletesWith .ok s t ∧ t.tag = s.tag ∧ KeepsBuf s t :=
  ⟨_, h, quadBits_setDout128 y s, block_keeps h hw⟩

end Sys2Proof.Machine
end

section
/-! PROOFS. The SKINNY commands (43_skinny.md R740, R741). -/

namespace Sys2Proof.Machine

open Sys2Proof

/-- V4.1 of 95_test_vectors.md. -/
theorem skinnyEncrypt_vector_64_64 :
    skinnyEncrypt .n64 1 32 (0xF5269826FC681238#64 ++ 0#320) 0x06034F957724D19D#64 =
      0xBB39DFB2429B8AC7#64 := by decide +kernel

/-- V4.12 of 95_test_vectors.md. -/
theorem skinnyDecrypt_vector_128_384 : skinnyDecrypt .n128 3 56
    0xDF889548CFC7EA52D296339301797449AB588A34A47F1AB2DFE9C8293FBEA9A5AB1AFAC2611012CD8CEF952618C3EBE8#384
    0x94ECF589E2017C601B38C6346A10DCFA#128 = 0xA3994B66AD85A3459F44E92B08F550CB#128 := by
  decide +kernel

/-- Settles O45: each row reads its fields, and every result stands in DOUT alone. -/
theorem skinnyCommandsWriteTheirResult : Obligations.SkinnyCommandsWriteTheirResult := by
  refine ⟨fun w hw => ?_, fun w hw => ?_, fun w _ => decode_reserved, skinnyEncrypt_vector_64_64,
    skinnyDecrypt_vector_128_384, fun s z rounds => ⟨?_, fun hz _ => ⟨?_, ?_, ?_, ?_⟩⟩⟩
  · exact decode_of_selects rowSkinnyEnc_mem (selects_of_and_eq hw)
  · exact decode_of_selects rowSkinnyDec_mem (selects_of_and_eq hw)
  · rintro rfl n
    exact exec_skinny_config n rounds s
  · exact skinny64_result rfl (exec_skinnyEnc_of_pos .n64 hz rounds s)
  · exact skinny64_result rfl (exec_skinnyDec_of_pos .n64 hz rounds s)
  · exact skinny128_result rfl (exec_skinnyEnc_of_pos .n128 hz rounds s)
  · exact skinny128_result rfl (exec_skinnyDec_of_pos .n128 hz rounds s)

end Sys2Proof.Machine
end

section
/-! SUPPORT. The SKINNY-AEAD commands on the registers and regions that they read (45_skinny_aead.md R900,
R902, R930, R931). -/

namespace Sys2Proof.Machine

open Sys2Proof

/-- A written output of the message's length is the region's new string, and the rest of BUF is as before
(20_memory.md R220). -/
theorem writesOutput_of_bufByte_eq {v : List Nibble} {s t : State}
    (hlen : v.length = s.msgLen.toNat) (h : ∀ a, bufByte t a = bufByte (writeOutput v s) a) :
    WritesOutput v s t := by
  refine ⟨?_, fun hodd => ?_, fun a ha => ?_⟩
  · rw [nibRead_congr fun x _ => h x, writeOutput, ← hlen, nibRead_nibWrite]
  · rw [h, writeOutput, ← hlen]
    exact bufByte_nibWrite_tail _ v s (hlen ▸ hodd)
  · rw [h, bufByte_writeOutput_outside hlen ha]

/-- Only M1 and M3 read NONCE3. -/
theorem memberNonce_nonce128 (member : Member) (s : State) :
    memberNonce member (nonce128 s) = memberNonce member (s.nonce[0] ++ s.nonce[1] ++ s.nonce[2] ++
      (if member = .m2 ∨ member = .m4 then 0#32 else s.nonce[3])) := by
  have drop (x y : Word) : (s.nonce[0] ++ s.nonce[1] ++ s.nonce[2] ++ x).extractLsb' 32 96 =
      (s.nonce[0] ++ s.nonce[1] ++ s.nonce[2] ++ y).extractLsb' 32 96 :=
    BitVec.extractLsb'_append_eq_left.trans BitVec.extractLsb'_append_eq_left.symm
  cases member with
  | m1 | m3 => rfl
  | m2 | m4 => exact congrArg (· ++ 0#32) (drop _ _)

theorem skaeadEncrypt_congr_nonce {member : Member} {nonce nonce' : Block}
    (h : memberNonce member nonce = memberNonce member nonce') (bits : MemberBits) (rule : TagRule)
    (k : Block) (ad msg : List Nibble) :
    skaeadEncrypt bits rule member k nonce ad msg =
      skaeadEncrypt bits rule member k nonce' ad msg := by
  simp only [skaeadEncrypt, skaeadContext, h]

theorem skaeadDecrypt_congr_nonce {member : Member} {nonce nonce' : Block}
    (h : memberNonce member nonce = memberNonce member nonce') (bits : MemberBits) (rule : TagRule)
    (k : Block) (ad ct : List Nibble) :
    skaeadDecrypt bits rule member k nonce ad ct = skaeadDecrypt bits rule member k nonce' ad ct := by
  simp only [skaeadDecrypt, skaeadContext, h]

/-- The expected tag by width (45_skinny_aead.md R900). -/
theorem expectedSkaeadTag_eq (member : Member) (s : State) :
    expectedSkaeadTag member s = if member = .m1 ∨ member = .m2 then
      SkaeadTag.full (s.tag[0] ++ s.tag[1] ++ s.tag[2] ++ s.tag[3])
      else SkaeadTag.short (s.tag[0] ++ s.tag[1]) := by
  cases member <;> rfl

/-- The members with a 64-bit tag write 0 to TAG2 and TAG3 (45_skinny_aead.md R930). -/
theorem setSkaeadTag_short {member : Member} (h : member = .m3 ∨ member = .m4) (t : Block)
    (s : State) :
    (setSkaeadTag (skaeadTruncate member t) s).tag[2] = 0#32 ∧
    (setSkaeadTag (skaeadTruncate member t) s).tag[3] = 0#32 := by
  obtain rfl | rfl := h <;> exact ⟨rfl, rfl⟩

theorem exec_skaead_precond {s : State} (member : Member) (h : ¬ RegionsFit s) :
    exec (.skaeadEnc member) s = .next (complete .precond s) ∧
    exec (.skaeadDec member) s = .next (complete .precond s) :=
  have hfit : ¬ regionsOk s = true := mt (regionsOk_iff s).mp h
  ⟨if_neg hfit, if_neg hfit⟩

theorem exec_skaeadDec_of_not_auth {s : State} {member : Member} (hfit : regionsOk s = true)
    (hr : (skaeadDecrypt s.params.memberBits s.params.tagRule member (key128 s) (nonce128 s)
      (adNibbles s) (msgNibbles s)).2 ≠ expectedSkaeadTag member s) :
    exec (.skaeadDec member) s = .next (complete .auth s) :=
  (if_pos hfit).trans (if_neg hr)

end Sys2Proof.Machine
end

section
/-! PROOFS. The SKINNY-AEAD commands (45_skinny_aead.md R930, R931). -/

namespace Sys2Proof.Machine

open Sys2Proof

/-- V6.1 of 95_test_vectors.md. -/
theorem skaeadEncrypt_vector_m1_empty :
    (skaeadEncrypt Params.default.memberBits .doc .m1 0x000102030405060708090A0B0C0D0E0F#128
      0x000102030405060708090A0B0C0D0E0F#128 [] []).2 =
      .full 0x99CE68EF7B52AAD0E11C6E2FC722426D#128 := by decide +kernel

/-- V6.3 of 95_test_vectors.md. -/
theorem skaeadDecrypt_vector_m3_empty :
    (skaeadDecrypt Params.default.memberBits .doc .m3 0x000102030405060708090A0B0C0D0E0F#128
      0x000102030405060708090A0B0C0D0E0F#128 [] []).2 = .short 0x62B08C0557EDCC94#64 := by
  decide +kernel

/-- Settles O57: a fitting command seals, and NONCE3 is not read where the member has 96 bits. -/
theorem skinnyAeadEncryptCommand : Obligations.SkinnyAeadEncryptCommand := by
  refine ⟨fun w hw => ?_, fun w hop => decode_skaead_illegal (by rw [hop]; decide),
    skaeadEncrypt_vector_m1_empty,
    fun s member => ⟨fun hfit => (exec_skaead_precond member hfit).1, fun hfit => ?_⟩⟩
  · have hdecode := decode_of_selects rowSkaeadEnc_mem (selects_of_and_eq hw)
    exact hdecode.trans (congrArg (fun m => Except.ok (Instr.skaeadEnc m)) (memberOfField_eq _))
  · have hexec := exec_skaeadEnc_of_fit member ((regionsOk_iff s).mpr hfit) rfl
    rw [skaeadEncrypt_congr_nonce (memberNonce_nonce128 member s)] at hexec
    refine ⟨_, hexec, writesOutput_of_bufByte_eq ?_ fun _ => rfl, ?_,
      fun hshort => setSkaeadTag_short hshort _ s, rfl, (ends_of_exec hexec).completesWith nofun⟩
    · exact (length_skaeadEncrypt ..).trans (length_msgNibbles s)
    · exact (expectedSkaeadTag_setSkaeadTag member _ s).symm.trans (expectedSkaeadTag_eq member _)

/-- Settles O58: the three ends by the range check and the comparison of the tags. -/
theorem skinnyAeadDecryptCommand : Obligations.SkinnyAeadDecryptCommand := by
  refine ⟨fun w hw => ?_, fun w hop => decode_skaead_illegal (by rw [hop]; decide),
    skaeadDecrypt_vector_m3_empty, fun s member => ?_⟩
  · have hdecode := decode_of_selects rowSkaeadDec_mem (selects_of_and_eq hw)
    exact hdecode.trans (congrArg (fun m => Except.ok (Instr.skaeadDec m)) (memberOfField_eq _))
  · have hr := skaeadDecrypt_congr_nonce (memberNonce_nonce128 member s) s.params.memberBits
      s.params.tagRule (key128 s) (adNibbles s) (msgNibbles s)
    dsimp only
    rw [← expectedSkaeadTag_eq]
    refine ⟨fun hfit => (exec_skaead_precond member hfit).2, fun hfit hne => ?_, fun hfit heq => ?_⟩
    · exact exec_skaeadDec_of_not_auth ((regionsOk_iff s).mpr hfit) (hr ▸ hne)
    · have hexec := exec_skaeadDec_of_auth member ((regionsOk_iff s).mpr hfit)
        (hr.trans (Prod.ext rfl heq))
      refine ⟨_, hexec, writesOutput_of_bufByte_eq ?_ fun _ => rfl, rfl, rfl,
        (ends_of_exec hexec).completesWith nofun⟩
      exact (length_skaeadDecrypt ..).trans (length_msgNibbles s)

end Sys2Proof.Machine
end

section
/-! SUPPORT. The round constants and the field GF(2^64) (40_primitives.md R410, R411, R420-R422). -/

namespace Sys2Proof.Machine

open Sys2Proof

/-! ### The round-constant register -/

/-- The all-ones value is a fixed point, and no other value leads to it. -/
theorem rcNext_eq_allOnes_iff : ∀ rc : BitVec 6, rcNext rc = 0x3F#6 ↔ rc = 0x3F#6 := by decide

theorem roundConstant_ne_allOnes (r : Nat) : roundConstant r ≠ 0x3F#6 := by
  induction r with
  | zero => decide
  | succ r ih => exact mt (rcNext_eq_allOnes_iff _).mp ih

theorem roundConstant_add_63 (r : Nat) : roundConstant (r + 63) = roundConstant r := by
  induction r with
  | zero => decide +kernel
  | succ r ih =>
    calc roundConstant (r + 1 + 63) = rcNext (roundConstant (r + 63)) := by
          rw [Nat.add_right_comm, roundConstant]
      _ = roundConstant (r + 1) := by rw [ih, roundConstant]

/-! ### Doubling and tripling as linear maps with no kernel -/

theorem double_eq (x : BitVec 64) :
    double x = if x.getLsbD 63 then (x <<< 1) ^^^ 0x000000000000001B#64 else x <<< 1 := by
  unfold double
  split <;> simp

theorem getLsbD_double_zero (x : BitVec 64) : (double x).getLsbD 0 = x.getLsbD 63 := by
  unfold double
  cases x.getLsbD 63 <;> simp

/-- A coefficient of X·x: the one below, and one of the reduction polynomial if x has degree 63. -/
theorem getLsbD_double_succ (x : BitVec 64) {i : Nat} (hi : i + 1 < 64) :
    (double x).getLsbD (i + 1) =
      (x.getLsbD i ^^ (x.getLsbD 63 && (0x000000000000001B#64).getLsbD (i + 1))) := by
  unfold double
  cases x.getLsbD 63 <;> simp [hi, Nat.lt_of_succ_lt hi]

theorem double_xor (x y : BitVec 64) : double (x ^^^ y) = double x ^^^ double y := by
  apply BitVec.eq_of_getLsbD_eq
  intro i hi
  cases i with
  | zero => simp only [BitVec.getLsbD_xor, getLsbD_double_zero]
  | succ i =>
    simp only [BitVec.getLsbD_xor, getLsbD_double_succ _ hi, Bool.and_xor_distrib_right,
      Bool.xor_assoc, Bool.xor_left_comm]

theorem triple_xor (x y : BitVec 64) : triple (x ^^^ y) = triple x ^^^ triple y := by
  simp only [triple, double_xor]
  ac_rfl

/-- X is a unit: with no term X^63 there is no reduction, and the shift loses nothing. -/
theorem eq_zero_of_double_eq_zero {x : BitVec 64} (h : double x = 0#64) : x = 0#64 := by
  have htop : x.getLsbD 63 = false := by rw [← getLsbD_double_zero, h, BitVec.getLsbD_zero]
  apply BitVec.eq_of_getLsbD_eq
  intro i hi
  by_cases hi63 : i = 63
  · rw [hi63, htop, BitVec.getLsbD_zero]
  · have hbit := getLsbD_double_succ x (i := i) (by omega)
    rw [h, htop, Bool.false_and, Bool.xor_false] at hbit
    rw [← hbit, BitVec.getLsbD_zero, BitVec.getLsbD_zero]

/-- A value with X·x = x is 0 or X^3 + 1, since (X + 1)·(X^3 + 1) is what the reduction adds. -/
theorem getLsbD_of_double_eq_self {x : BitVec 64} (h : double x = x) {i : Nat} (hi : i < 64) :
    x.getLsbD i = (x.getLsbD 63 && (0x0000000000000009#64).getLsbD i) := by
  induction i with
  | zero =>
    have hbit := getLsbD_double_zero x
    rw [h] at hbit
    rw [hbit]
    exact (Bool.and_true _).symm
  | succ i ih =>
    have hnine : ∀ j < 63, (0x0000000000000009#64).getLsbD (j + 1) =
      ((0x0000000000000009#64).getLsbD j ^^ (0x000000000000001B#64).getLsbD (j + 1)) := by decide
    have hbit := getLsbD_double_succ x hi
    rw [h, ih (by omega), ← Bool.and_xor_distrib_left, ← hnine i (by omega)] at hbit
    exact hbit

/-- X + 1 is a unit: X^3 + 1 has no term X^63, so it is no value with X·x = x. -/
theorem eq_zero_of_triple_eq_zero {x : BitVec 64} (h : triple x = 0#64) : x = 0#64 := by
  have hfix : double x = x := (BitVec.xor_eq_zero_iff.mp h).symm
  have htop : x.getLsbD 63 = false := by
    rw [getLsbD_of_double_eq_self hfix (by decide)]
    exact Bool.and_false _
  apply BitVec.eq_of_getLsbD_eq
  intro i hi
  rw [getLsbD_of_double_eq_self hfix hi, htop, Bool.false_and, BitVec.getLsbD_zero]

/-- A linear map with no kernel is a bijection. -/
theorem bijective_of_xor {f : BitVec 64 → BitVec 64} (hxor : ∀ x y, f (x ^^^ y) = f x ^^^ f y)
    (hker : ∀ x, f x = 0#64 → x = 0#64) : Function.Bijective f := by
  have : Finite (BitVec 64) := Finite.of_equiv _ BitVec.equivFin.symm.toEquiv
  refine Finite.injective_iff_bijective.mp fun x y h => ?_
  exact BitVec.xor_eq_zero_iff.mp (hker _ (by rw [hxor, h, BitVec.xor_self]))

end Sys2Proof.Machine
end

section
/-! SUPPORT. The blocks of a split string, and the padded block (40_primitives.md R430-R434). -/

namespace Sys2Proof.Machine

open Sys2Proof

theorem length_splitBlocks (k : Nat) (v : List Nibble) : (splitBlocks k v).length = k := by
  induction k generalizing v with
  | zero => rfl
  | succ k ih => rw [splitBlocks, List.length_cons, ih]

/-- The last of k + 1 blocks is what the first k leave. -/
theorem getLast?_splitBlocks_succ (k : Nat) (v : List Nibble) :
    (splitBlocks (k + 1) v).getLast? = some ((v.drop (32 * k)).take 32) := by
  induction k generalizing v with
  | zero => rfl
  | succ k ih =>
    rw [splitBlocks, List.getLast?_cons, ih, Option.getD_some, List.drop_drop, Nat.mul_succ,
      Nat.add_comm]

/-- Every block but the last is full. -/
theorem length_of_mem_dropLast_splitBlocks {k : Nat} {v b : List Nibble} (hv : 32 * k ≤ v.length)
    (h : b ∈ (splitBlocks (k + 1) v).dropLast) : b.length = 32 := by
  induction k generalizing v with
  | zero => simp [splitBlocks] at h
  | succ k ih =>
    have hcons : (splitBlocks (k + 2) v).dropLast =
        v.take 32 :: (splitBlocks (k + 1) (v.drop 32)).dropLast := rfl
    rw [hcons] at h
    rcases List.mem_cons.mp h with rfl | h
    · rw [List.length_take]; omega
    · exact ih (by rw [List.length_drop]; omega) h

theorem split_of_ne_nil {v : List Nibble} (hv : v ≠ []) :
    split v = splitBlocks ((v.length - 1) / 32 + 1) v := by
  have hpos := List.length_pos_iff.mpr hv
  rw [split, if_neg (by omega)]
  congr 1
  omega

theorem length_split {v : List Nibble} (hv : v ≠ []) : (split v).length = (v.length + 31) / 32 := by
  have hpos := List.length_pos_iff.mpr hv
  rw [split_of_ne_nil hv, length_splitBlocks]
  omega

theorem length_of_mem_dropLast_split {v b : List Nibble} (h : b ∈ (split v).dropLast) :
    b.length = 32 := by
  by_cases hv : v = []
  · simp [hv, split] at h
  · rw [split_of_ne_nil hv] at h
    exact length_of_mem_dropLast_splitBlocks (by omega) h

/-- The length of the last block: what is left over by the full blocks before it. -/
theorem length_of_getLast?_split {v b : List Nibble} (h : b ∈ (split v).getLast?) :
    b.length = v.length - 32 * ((v.length - 1) / 32) := by
  by_cases hv : v = []
  · have hb : b = [] := by simpa [hv, split] using h.symm
    simp [hb, hv]
  · rw [split_of_ne_nil hv, getLast?_splitBlocks_succ, Option.mem_some_iff] at h
    rw [← h, List.length_take, List.length_drop]
    omega

theorem tailOf_eq_fullTail_iff (len : Nat) : tailOf len = .fullTail ↔ len ≠ 0 ∧ len % 32 = 0 := by
  unfold tailOf
  split_ifs <;> simp [*]

theorem tailOf_eq_partialTail_iff (len : Nat) : tailOf len = .partialTail ↔ len % 32 ≠ 0 := by
  unfold tailOf
  split_ifs <;> simp [*]

/-- The last block is not full exactly when the string has no full tail (40_primitives.md R432). -/
theorem length_getLast?_split_lt_iff {v b : List Nibble} (h : b ∈ (split v).getLast?) :
    b.length < 32 ↔ tailOf v.length ≠ .fullTail := by
  have hlen := length_of_getLast?_split h
  rw [ne_eq, tailOf_eq_fullTail_iff]
  omega

/-- A string has a block that is not full exactly when it is a partial tail. -/
theorem any_partial_split {v : List Nibble} (hv : v ≠ []) :
    (split v).any (fun b => decide (b.length ≠ 32)) = decide (tailOf v.length = .partialTail) := by
  have hpos := List.length_pos_iff.mpr hv
  obtain ⟨b, hb⟩ : ∃ b, b ∈ (split v).getLast? :=
    ⟨_, by rw [split_of_ne_nil hv, getLast?_splitBlocks_succ]; rfl⟩
  have hlen := length_of_getLast?_split hb
  have hlast : b.length ≠ 32 ↔ tailOf v.length = .partialTail := by
    rw [tailOf_eq_partialTail_iff]
    omega
  have hinit : (split v).dropLast.any (fun b => decide (b.length ≠ 32)) = false :=
    List.any_eq_false.mpr fun c hc => by simp [length_of_mem_dropLast_split hc]
  rw [← List.dropLast_append_getLast? b hb, List.any_append, hinit, Bool.false_or, List.any_cons,
    List.any_nil, Bool.or_false, decide_eq_decide]
  exact hlast

theorem getElem?_blockNibbles (v : Block) {t : Nat} (ht : t < 32) :
    (blockNibbles v)[t]? = some (v.extractLsb' (4 * (31 - t)) 4) := by
  simp [blockNibbles, ht]

theorem blk_of_full {m : List Nibble} (h : m.length = 32) : blk m = packNibbles m := if_pos h

theorem blk_of_partial {m : List Nibble} (h : m.length < 32) : blk m = pad10 m :=
  if_neg (Nat.ne_of_lt h)

/-- The nibbles of a padded block (40_primitives.md R430). -/
theorem blockNibbles_pad10 {m : List Nibble} (h : m.length < 32) :
    blockNibbles (pad10 m) = m ++ 0x8#4 :: List.replicate (31 - m.length) 0x0#4 :=
  blockNibbles_packNibbles _ (by
    rw [List.length_append, List.length_cons, List.length_replicate]
    omega)

end Sys2Proof.Machine
end

section
/-! SUPPORT. The two AEAD modes on a whole string: GIFT-COFB as its loops, and SKINNY-AEAD as one message
pass and its tag (44_gift_cofb.md R810-R812, 45_skinny_aead.md R910, R913, R915). -/

namespace Sys2Proof.Machine

open Sys2Proof

theorem cofb_eq_loop (e : Block → Block) (dir : Direction) (nonce : Block) (ad msg : List Nibble) :
    let afterAd := cofbLoop e .encrypt (msg.length == 0) (split ad)
      { y := e nonce, delta := (e nonce).extractLsb' 64 64, out := [] }
    let message := cofbLoop e dir false (blocksIfAny msg) { afterAd with out := [] }
    cofb e dir nonce ad msg = (message.out, message.y) := by
  intro afterAd message
  have had : cofbAdPass e (msg.length == 0) (split ad) (e nonce) ((e nonce).extractLsb' 64 64) =
      (afterAd.y, afterAd.delta) :=
    cofbAdPass_eq_loop e (msg.length == 0) _ (split ad) 0
      { y := e nonce, delta := (e nonce).extractLsb' 64 64, out := [] } (Nat.zero_add _)
  obtain ⟨hout, hy⟩ := cofbMessagePass_eq_loop e dir _ (blocksIfAny msg) 0
    { afterAd with out := [] } (Nat.zero_add _)
  have hcofb : cofb e dir nonce ad msg =
      cofbMessagePass e dir (blocksIfAny msg) afterAd.y afterAd.delta := by
    by_cases h : msg = []
    · subst h
      exact congrArg (fun r => ([], r.1)) had
    · have hlen : msg.length ≠ 0 := mt List.eq_nil_of_length_eq_zero h
      rw [beq_eq_decide] at had
      simp only [cofb, if_neg hlen, blocksIfAny, if_neg h, had]
  exact hcofb.trans (Prod.ext hout.symm hy.symm)

/-- The flag of a partial block after the message pass (45_skinny_aead.md R910). -/
theorem lastPartial_skaeadMessagePass (x : SkaeadContext) (dir : Direction)
    (blocks : List (List Nibble)) (lfsr : BitVec 64) (sigma : Block) (lastPartial : Bool) :
    (skaeadMessagePass x dir blocks lfsr sigma lastPartial).lastPartial =
      (lastPartial || blocks.any fun b => decide (b.length ≠ 32)) := by
  induction blocks generalizing lfsr sigma lastPartial with
  | nil => simp [skaeadMessagePass]
  | cons m rest ih => rw [skaeadMessagePass, List.any_cons, ← Bool.or_assoc, ← ih]

/-- SKINNY-AEAD with the tag role by the tail class of the message (40_primitives.md R432,
45_skinny_aead.md R915). -/
theorem skaead_eq (x : SkaeadContext) (rule : TagRule) (dir : Direction) (ad msg : List Nibble) :
    let pass := skaeadMessagePass x dir (blocksIfAny msg) 1#64 0#128 false
    let role := skaeadTagRole rule msg.length (decide (tailOf msg.length = .partialTail))
    let auth := if ad.length = 0 then 0#128 else skaeadAdPass x (split ad) 1#64 0#128
    skaead x rule dir ad msg = (pass.out, skaeadE x pass.lfsr role pass.sigma ^^^ auth) := by
  by_cases h : msg = []
  · subst h; rfl
  · have hlen : ¬ msg.length = 0 := mt List.eq_nil_of_length_eq_zero h
    simp only [skaead, blocksIfAny, if_neg h, if_neg hlen, lastPartial_skaeadMessagePass,
      Bool.false_or, any_partial_split h]

theorem skaeadTagRole_doc {len : Nat} (h : 0 < len) (lastPartial : Bool) :
    skaeadTagRole .doc len lastPartial = .tagNonEmpty := if_neg (Nat.ne_of_gt h)

/-- The two tag rules name one role unless the message has a full tail. -/
theorem skaeadTagRole_doc_eq_published {len : Nat} (h : tailOf len ≠ .fullTail) :
    skaeadTagRole .doc len (decide (tailOf len = .partialTail)) =
      skaeadTagRole .published len (decide (tailOf len = .partialTail)) := by
  by_cases hzero : len = 0
  · subst hzero; rfl
  · have hpartial : tailOf len = .partialTail := by
      rw [ne_eq, tailOf_eq_fullTail_iff] at h
      rw [tailOf_eq_partialTail_iff]
      omega
    rw [skaeadTagRole_doc (Nat.pos_of_ne_zero hzero), hpartial]
    rfl

theorem skaead_doc_eq_published (x : SkaeadContext) (dir : Direction) (ad : List Nibble)
    {msg : List Nibble} (h : tailOf msg.length ≠ .fullTail) :
    skaead x .doc dir ad msg = skaead x .published dir ad msg := by
  rw [skaead_eq, skaead_eq, skaeadTagRole_doc_eq_published h]

end Sys2Proof.Machine
end

section
/-! PROOFS. The shared primitives (40_primitives.md). -/

namespace Sys2Proof.Machine

open Sys2Proof

/-- Settles O46: the table evaluated, then the period and the excluded value by recursion on the round. -/
theorem roundConstantsHavePeriod63 : Obligations.RoundConstantsHavePeriod63 :=
  ⟨by decide +kernel, by decide +kernel, roundConstant_add_63 0,
    fun r => ⟨roundConstant_add_63 r, roundConstant_ne_allOnes r⟩⟩

/-- Settles O47: both maps are linear over XOR and have no kernel. -/
theorem doublingAndTriplingAreBijections : Obligations.DoublingAndTriplingAreBijections :=
  ⟨fun x => ⟨double_eq x, BitVec.xor_comm x (double x)⟩, by decide, by decide, by decide, by decide,
    by decide, bijective_of_xor double_xor fun _ => eq_zero_of_double_eq_zero,
    bijective_of_xor triple_xor fun _ => eq_zero_of_triple_eq_zero⟩

/-- Settles O48: the blocks of a string, then one block as nibbles. -/
theorem splitCutsIntoBlocks : Obligations.SplitCutsIntoBlocks := by
  refine ⟨rfl, fun v hv => ⟨length_split hv, flatten_split v, fun b => length_of_mem_dropLast_split,
      fun b hb => ?_⟩, fun v t => getElem?_blockNibbles v,
    fun v => ⟨length_blockNibbles v, packNibbles_blockNibbles v⟩,
    fun m hm => ⟨blk_of_full hm, blockNibbles_packNibbles m hm⟩,
    fun m hm => ⟨blk_of_partial hm, blockNibbles_pad10 hm⟩, fun m v _ => ⟨rfl, rfl⟩⟩
  have hpos := List.length_pos_iff.mpr hv
  have hlen := length_of_getLast?_split hb
  omega

/-- Settles O51: the number of triplings by the length of the last block, and each pass as its loop. -/
theorem cofbMaskSchedule : Obligations.CofbMaskSchedule := by
  refine ⟨fun v noMessage delta b hb => ?_, fun loading k nonce ad msg =>
    ⟨cofb_eq_loop _ .encrypt nonce ad msg, cofb_eq_loop _ .decrypt nonce ad msg⟩⟩
  rw [cofbLastMask_eq_iterate]
  have hlast := length_getLast?_split_lt_iff hb
  by_cases htail : tailOf v.length = .fullTail <;> simp [hlast, htail]

/-- Settles O56: SKINNY-AEAD depends on the tag rule through the tag role alone. -/
theorem tagRulesDifferOnlyOnFullTails : Obligations.TagRulesDifferOnlyOnFullTails := by
  refine ⟨fun bits member k nonce ad msg h => ?_, fun _ => rfl, fun len lastPartial hlen => ?_,
    fun _ => rfl, fun x dir ad msg h => ?_⟩
  · simp only [skaeadEncrypt, skaeadDecrypt, skaead_doc_eq_published _ _ _ h, and_self]
  · exact ⟨congrArg roleIndex (skaeadTagRole_doc hlen lastPartial), rfl⟩
  · obtain ⟨hne, -⟩ := (tailOf_eq_fullTail_iff _).mp h
    have hblocks : blocksIfAny msg = split msg := if_neg (mt (congrArg List.length) hne)
    rw [skaead_eq, skaead_eq, hblocks, skaeadTagRole_doc (Nat.pos_of_ne_zero hne), h,
      skaeadE_eq, skaeadE_eq]
    exact ⟨rfl, _, rfl, rfl⟩

end Sys2Proof.Machine
end

section
/-! SUPPORT. Each layer of the table-driven GIFT and its inverse, at both widths (41_gift.md R503-R513),
and the inverse S-boxes of SKINNY (43_skinny.md R702-R704). -/

namespace Sys2Proof.Machine

open Sys2Proof

/-! ### The S-boxes -/

theorem giftSboxInv_giftSbox (x : Nibble) : giftSboxInv (giftSbox x) = x := by
  revert x; decide

theorem giftSbox_giftSboxInv (x : Nibble) : giftSbox (giftSboxInv x) = x := by
  revert x; decide

theorem skSbox4_skSbox4Inv (x : Nibble) : skSbox4 (skSbox4Inv x) = x := by
  revert x; decide

theorem skSbox8_skSbox8Inv (x : Byte) : skSbox8 (skSbox8Inv x) = x := by
  revert x; decide

theorem skSbox8_eq_skSbox8Circuit (x : Byte) : skSbox8 x = skSbox8Circuit x := by
  revert x; decide +kernel

/-! ### The layers at a width -/

/-- What GIFT asks of its width: whole nibbles, and a permutation of the bits with its inverse. -/
structure GiftWidth (n : Nat) : Prop where
  nibbles : 4 * (n / 4) = n
  perm : ∀ i < n, giftPerm n i < n ∧ giftPermInv n (giftPerm n i) = i
  permInv : ∀ j < n, giftPermInv n j < n ∧ giftPerm n (giftPermInv n j) = j

theorem giftWidth_64 : GiftWidth 64 := ⟨rfl, by decide, by decide⟩

theorem giftWidth_128 : GiftWidth 128 := ⟨rfl, by decide, by decide⟩

section
variable {n : Nat} (hn : GiftWidth n)
include hn

theorem giftInvSubCells_giftSubCells (b : BitVec n) : giftInvSubCells (giftSubCells b) = b := by
  refine giftNibble_ext hn.nibbles fun j hj => ?_
  rw [giftNibble_giftInvSubCells hn.nibbles _ j hj, giftNibble_giftSubCells hn.nibbles b j hj,
    giftSboxInv_giftSbox]

theorem giftSubCells_giftInvSubCells (b : BitVec n) : giftSubCells (giftInvSubCells b) = b := by
  refine giftNibble_ext hn.nibbles fun j hj => ?_
  rw [giftNibble_giftSubCells hn.nibbles _ j hj, giftNibble_giftInvSubCells hn.nibbles b j hj,
    giftSbox_giftSboxInv]

theorem getLsbD_giftPermBits_giftPerm (b : BitVec n) {i : Nat} (hi : i < n) :
    (giftPermBits b).getLsbD (giftPerm n i) = b.getLsbD i := by
  obtain ⟨hlt, hinv⟩ := hn.perm i hi
  rw [getLsbD_giftPermBits, hinv, decide_eq_true hlt, Bool.true_and]

theorem giftInvPermBits_giftPermBits (b : BitVec n) : giftInvPermBits (giftPermBits b) = b := by
  refine BitVec.eq_of_getLsbD_eq fun i hi => ?_
  rw [getLsbD_giftInvPermBits, getLsbD_giftPermBits_giftPerm hn b hi, decide_eq_true hi,
    Bool.true_and]

theorem giftPermBits_giftInvPermBits (b : BitVec n) : giftPermBits (giftInvPermBits b) = b := by
  refine BitVec.eq_of_getLsbD_eq fun j hj => ?_
  obtain ⟨hlt, hinv⟩ := hn.permInv j hj
  rw [getLsbD_giftPermBits, getLsbD_giftInvPermBits, hinv, decide_eq_true hj, decide_eq_true hlt,
    Bool.true_and, Bool.true_and]

end

/-! ### The key schedule and AddRoundKey -/

theorem rotr_eq_rotateRight {w : Nat} (x : BitVec w) (k : Nat) : rotr x k = x.rotateRight k := rfl

/-- The words that the key update rotates, and the words that it shifts down (41_gift.md R512). -/
theorem giftKeyWord_giftKeyUpdate (k : Block) :
    giftKeyWord (giftKeyUpdate k) 7 = (giftKeyWord k 1).rotateRight 2 ∧
    giftKeyWord (giftKeyUpdate k) 6 = (giftKeyWord k 0).rotateRight 12 ∧
    ∀ i, i < 6 → giftKeyWord (giftKeyUpdate k) i = giftKeyWord k (i + 2) := by
  rw [giftKeyUpdate, rotr_eq_rotateRight, rotr_eq_rotateRight]
  refine ⟨?_, ?_, fun i hi => ?_⟩
  · rw [giftKeyWord, BitVec.extractLsb'_append_eq_of_le (by decide)]
    exact BitVec.extractLsb'_append_eq_left
  · rw [giftKeyWord, BitVec.extractLsb'_append_eq_of_le (by decide)]
    exact BitVec.extractLsb'_append_eq_right
  · rw [giftKeyWord, BitVec.extractLsb'_append_eq_of_add_le (by omega)]
    refine BitVec.eq_of_getLsbD_eq fun t ht => ?_
    have hlow : 16 * i + t < 96 := by omega
    have hpos : 32 + (16 * i + t) = 16 * (i + 2) + t := by omega
    simp [giftKeyWord, ht, hlow, hpos]

/-- The constants at the top bits of the nibbles: RC in the six lowest, 1 in the highest
(41_gift.md R513). -/
theorem giftConstBit_eq {m : Nat} (hm : 6 < m) (c : BitVec 6) (j : Nat) :
    giftConstBit (4 * m) c j = if j ≤ 5 then c.getLsbD j else decide (j = m - 1) := by
  unfold giftConstBit
  by_cases hj : j ≤ 5
  · have htop : ¬ 4 * j + 3 = 4 * m - 1 := by omega
    rw [if_pos hj, decide_eq_false htop, Bool.xor_false]
  · have htop : 4 * j + 3 = 4 * m - 1 ↔ j = m - 1 := by omega
    rw [if_neg hj, BitVec.getLsbD_of_ge c j (by omega), Bool.false_xor, decide_eq_decide]
    exact htop

/-- What AddRoundKey_64 XORs into each bit of nibble j (41_gift.md R513). -/
theorem getLsbD_giftRoundMask64 (u v : BitVec 16) (c : BitVec 6) {j : Nat} (hj : j < 16) :
    (giftRoundMask64 (u, v) c).getLsbD (4 * j) = v.getLsbD j ∧
    (giftRoundMask64 (u, v) c).getLsbD (4 * j + 1) = u.getLsbD j ∧
    (giftRoundMask64 (u, v) c).getLsbD (4 * j + 2) = false ∧
    (giftRoundMask64 (u, v) c).getLsbD (4 * j + 3) = giftConstBit 64 c j := by
  have hlt : 4 * j < 64 ∧ 4 * j + 1 < 64 ∧ 4 * j + 3 < 64 := by omega
  simp only [giftRoundMask64, getLsbD_ofBits]
  simp [Nat.mul_add_div, hlt]

/-- What AddRoundKey_128 XORs into each bit of nibble j (41_gift.md R513). -/
theorem getLsbD_giftRoundMask128 (u v : BitVec 32) (c : BitVec 6) {j : Nat} (hj : j < 32) :
    (giftRoundMask128 (u, v) c).getLsbD (4 * j) = false ∧
    (giftRoundMask128 (u, v) c).getLsbD (4 * j + 1) = v.getLsbD j ∧
    (giftRoundMask128 (u, v) c).getLsbD (4 * j + 2) = u.getLsbD j ∧
    (giftRoundMask128 (u, v) c).getLsbD (4 * j + 3) = giftConstBit 128 c j := by
  have hlt : 4 * j + 1 < 128 ∧ 4 * j + 2 < 128 ∧ 4 * j + 3 < 128 := by omega
  simp only [giftRoundMask128, getLsbD_ofBits]
  simp [Nat.mul_add_div, hlt]

end Sys2Proof.Machine
end

section
/-! SUPPORT. GIFT as loops over its rounds, and that decryption and encryption undo each other (41_gift.md
R514, R520-R522). -/

namespace Sys2Proof.Machine

open Sys2Proof

/-! ### The rounds by their number -/

theorem giftKeyStates_eq_map (rounds : Nat) (k : Block) :
    giftKeyStates rounds k = (List.range rounds).map fun r => giftKeyUpdate^[r] k := by
  induction rounds generalizing k with
  | zero => rfl
  | succ rounds ih =>
    rw [giftKeyStates, ih, List.range_succ_eq_map, List.map_cons, List.map_map]
    rfl

theorem roundConstant_eq_iterate (r : Nat) : roundConstant r = rcNext^[r + 1] 0#6 := by
  induction r with
  | zero => rfl
  | succ r ih => rw [roundConstant, ih, Function.iterate_succ_apply' rcNext (r + 1)]

theorem roundConstantsFrom_eq_map (count : Nat) (rc : BitVec 6) :
    roundConstantsFrom count rc = (List.range count).map fun r => rcNext^[r + 1] rc := by
  induction count generalizing rc with
  | zero => rfl
  | succ count ih =>
    rw [roundConstantsFrom, ih, List.range_succ_eq_map, List.map_cons, List.map_map]
    rfl

/-- The list of the round constants is `RC[0]`, `RC[1]`, ... (40_primitives.md R410). -/
theorem roundConstants_eq_map (rounds : Nat) :
    roundConstants rounds = (List.range rounds).map roundConstant := by
  rw [roundConstants, roundConstantsFrom_eq_map]
  exact List.map_congr_left fun r _ => (roundConstant_eq_iterate r).symm

theorem giftRounds64_eq_map (k : Block) : giftRounds64 k =
    (List.range 28).map fun r => (giftRoundKey64 (giftKeyUpdate^[r] k), roundConstant r) := by
  rw [giftRounds64, giftRoundKeys64, giftKeyStates_eq_map, roundConstants_eq_map, List.map_map,
    List.zip_map']
  rfl

theorem giftRounds128_eq_map (k : Block) : giftRounds128 k =
    (List.range 40).map fun r => (giftRoundKey128 (giftKeyUpdate^[r] k), roundConstant r) := by
  rw [giftRounds128, giftRoundKeys128, giftKeyStates_eq_map, roundConstants_eq_map, List.map_map,
    List.zip_map']
  rfl

/-- Consuming the rounds last to first is the loop downwards (41_gift.md R521). -/
theorem foldr_map_range {α β : Type} (f : α → β → β) (round : Nat → α) (rounds : Nat) (s : β) :
    ((List.range rounds).map round).foldr f s =
      (List.range rounds).reverse.foldl (fun b r => f (round r) b) s := by
  rw [List.foldr_map, List.foldr_eq_foldl_reverse]

/-! ### Encryption and decryption undo each other -/

theorem giftInvRound64_giftRound64 (r : (BitVec 16 × BitVec 16) × BitVec 6) (b : BitVec 64) :
    giftInvRound64 r (giftRound64 b r) = b := by
  rw [giftInvRound64, giftRound64, giftAddRoundKey64, giftAddRoundKey64, xor_xor_cancel_right,
    giftInvPermBits_giftPermBits giftWidth_64, giftInvSubCells_giftSubCells giftWidth_64]

theorem giftRound64_giftInvRound64 (r : (BitVec 16 × BitVec 16) × BitVec 6) (b : BitVec 64) :
    giftRound64 (giftInvRound64 r b) r = b := by
  rw [giftRound64, giftInvRound64, giftSubCells_giftInvSubCells giftWidth_64,
    giftPermBits_giftInvPermBits giftWidth_64, giftAddRoundKey64, giftAddRoundKey64,
    xor_xor_cancel_right]

theorem giftInvRound128_giftRound128 (r : (BitVec 32 × BitVec 32) × BitVec 6) (b : Block) :
    giftInvRound128 r (giftRound128 b r) = b := by
  rw [giftInvRound128, giftRound128, giftAddRoundKey128, giftAddRoundKey128, xor_xor_cancel_right,
    giftInvPermBits_giftPermBits giftWidth_128, giftInvSubCells_giftSubCells giftWidth_128]

theorem giftRound128_giftInvRound128 (r : (BitVec 32 × BitVec 32) × BitVec 6) (b : Block) :
    giftRound128 (giftInvRound128 r b) r = b := by
  rw [giftRound128, giftInvRound128, giftSubCells_giftInvSubCells giftWidth_128,
    giftPermBits_giftInvPermBits giftWidth_128, giftAddRoundKey128, giftAddRoundKey128,
    xor_xor_cancel_right]

/-- Redoing rounds first to last redoes all that were undone last to first. -/
theorem foldl_foldr_cancel {α β : Type} {f : β → α → β} {g : α → β → β}
    (h : ∀ r s, f (g r s) r = s) (rounds : List α) (s : β) : rounds.foldl f (rounds.foldr g s) = s := by
  induction rounds with
  | nil => rfl
  | cons r rounds ih => rw [List.foldr_cons, List.foldl_cons, h, ih]

theorem giftDec64_giftEnc64 (p : BitVec 64) (k : Block) : giftDec64 (giftEnc64 p k) k = p :=
  foldr_foldl_cancel giftInvRound64_giftRound64 _ p

theorem giftEnc64_giftDec64 (c : BitVec 64) (k : Block) : giftEnc64 (giftDec64 c k) k = c :=
  foldl_foldr_cancel giftRound64_giftInvRound64 _ c

theorem giftDec128_giftEnc128 (p k : Block) : giftDec128 (giftEnc128 p k) k = p :=
  foldr_foldl_cancel giftInvRound128_giftRound128 _ p

theorem giftEnc128_giftDec128 (c k : Block) : giftEnc128 (giftDec128 c k) k = c :=
  foldl_foldr_cancel giftRound128_giftInvRound128 _ c

end Sys2Proof.Machine
end

section
/-! PROOFS. The table-driven GIFT and the S-boxes (41_gift.md R503-R522, 43_skinny.md R702-R704). -/

namespace Sys2Proof.Machine

open Sys2Proof

/-- Settles O29: the listed tables evaluated, each inverse by its lemma. -/
theorem sboxTablesAreInverses : Obligations.SboxTablesAreInverses :=
  ⟨by decide, by decide, fun x => ⟨giftSboxInv_giftSbox x, giftSbox_giftSboxInv x⟩, by decide,
    fun x => ⟨skSbox4Inv_skSbox4 x, skSbox4_skSbox4Inv x⟩,
    fun x => ⟨skSbox8_eq_skSbox8Circuit x, skSbox8Inv_skSbox8 x, skSbox8_skSbox8Inv x⟩⟩

/-- Settles O30: the bit by bit laws of both layers at the two widths. -/
theorem giftPermBitsMovesEachBit : Obligations.GiftPermBitsMovesEachBit := by
  refine ⟨fun b i hi => ⟨getLsbD_giftPermBits_giftPerm giftWidth_64 b hi, ?_⟩,
    fun b i hi => ⟨getLsbD_giftPermBits_giftPerm giftWidth_128 b hi, ?_⟩⟩
  all_goals
    rw [getLsbD_giftInvPermBits, decide_eq_true hi, Bool.true_and]
    rfl

/-- Settles O31: the words of the updated key, and the mask of AddRoundKey bit by bit. -/
theorem giftRoundKeysBitByBit : Obligations.GiftRoundKeysBitByBit := by
  refine ⟨fun k => ⟨fun _ _ => rfl, rfl, rfl⟩, giftKeyWord_giftKeyUpdate, fun b u v c i hi => ?_,
    fun b u v c i hi => ?_⟩
  · obtain ⟨h0, h1, h2, h3⟩ := getLsbD_giftRoundMask64 u v c hi
    simp only [giftAddRoundKey64, BitVec.getLsbD_xor, h0, h1, h2, h3, Bool.xor_false, true_and]
    rw [giftConstBit_eq (m := 16) (by decide) c i]
  · obtain ⟨h0, h1, h2, h3⟩ := getLsbD_giftRoundMask128 u v c hi
    simp only [giftAddRoundKey128, BitVec.getLsbD_xor, h0, h1, h2, h3, Bool.xor_false, true_and]
    rw [giftConstBit_eq (m := 32) (by decide) c i]

/-- Settles O32: the nibbles of SubCells, then the lists of rounds by their numbers. -/
theorem giftRunsItsRoundsInOrder : Obligations.GiftRunsItsRoundsInOrder := by
  refine ⟨fun b j hj => ?_, fun b j hj => ?_, fun p k => ?_, fun p k => ?_⟩
  · exact ⟨giftNibble_giftSubCells giftWidth_64.nibbles b j hj,
      giftNibble_giftInvSubCells giftWidth_64.nibbles b j hj⟩
  · exact ⟨giftNibble_giftSubCells giftWidth_128.nibbles b j hj,
      giftNibble_giftInvSubCells giftWidth_128.nibbles b j hj⟩
  · rw [giftEnc64, giftDec64, giftRounds64_eq_map, foldr_map_range, List.foldl_map]
    exact ⟨rfl, rfl⟩
  · rw [giftEnc128, giftDec128, giftRounds128_eq_map, foldr_map_range, List.foldl_map]
    exact ⟨rfl, rfl⟩

/-- Settles O33: every round and its inverse undo each other. -/
theorem giftRoundTrip : Obligations.GiftRoundTrip :=
  ⟨fun p k => ⟨giftDec64_giftEnc64 p k, giftEnc64_giftDec64 p k⟩,
    fun p k => ⟨giftDec128_giftEnc128 p k, giftEnc128_giftDec128 p k⟩⟩

end Sys2Proof.Machine
end

section
/-! SUPPORT. The bit-sliced engine on a sliced state is GIFT-128, layer by layer, and so it undoes itself
under either loading (42_gift128_bitsliced.md R600-R632). -/

namespace Sys2Proof.Machine

open Sys2Proof

/-! ### Packed states by their bits and by their columns -/

/-- Two packed states with equal bits are equal. -/
theorem slices_ext {s t : Slices}
    (h : ∀ j < 32, s.s0.getLsbD j = t.s0.getLsbD j ∧ s.s1.getLsbD j = t.s1.getLsbD j ∧
      s.s2.getLsbD j = t.s2.getLsbD j ∧ s.s3.getLsbD j = t.s3.getLsbD j) : s = t := by
  obtain ⟨s0, s1, s2, s3⟩ := s
  obtain ⟨t0, t1, t2, t3⟩ := t
  simp only [forall_and] at h
  obtain ⟨h0, h1, h2, h3⟩ := h
  rw [BitVec.eq_of_getLsbD_eq h0, BitVec.eq_of_getLsbD_eq h1, BitVec.eq_of_getLsbD_eq h2,
    BitVec.eq_of_getLsbD_eq h3]

theorem nibbleOfBits_inj : ∀ {b3 b2 b1 b0 c3 c2 c1 c0 : Bool},
    nibbleOfBits b3 b2 b1 b0 = nibbleOfBits c3 c2 c1 c0 →
      b0 = c0 ∧ b1 = c1 ∧ b2 = c2 ∧ b3 = c3 := by
  decide

theorem nibbleOfBits_getLsbD (x : Nibble) :
    nibbleOfBits (x.getLsbD 3) (x.getLsbD 2) (x.getLsbD 1) (x.getLsbD 0) = x := by
  revert x; decide

/-- Column j of a packed state: bit j of the four words, S0 lowest (42_gift128_bitsliced.md R600). -/
def sliceColumn (s : Slices) (j : Nat) : Nibble :=
  nibbleOfBits (s.s3.getLsbD j) (s.s2.getLsbD j) (s.s1.getLsbD j) (s.s0.getLsbD j)

/-- Two packed states with equal columns are equal. -/
theorem sliceColumn_ext {s t : Slices} (h : ∀ j < 32, sliceColumn s j = sliceColumn t j) : s = t :=
  slices_ext fun j hj => nibbleOfBits_inj (h j hj)

theorem sliceColumn_slice (b : Block) {j : Nat} (hj : j < 32) :
    sliceColumn (slice b) j = giftNibble b j := by
  rw [← nibbleOfBits_getLsbD (giftNibble b j)]
  simp only [sliceColumn, slice, giftNibble, getLsbD_ofBits, BitVec.getLsbD_extractLsb', hj,
    decide_true, Bool.true_and, Nat.add_zero, Nat.reduceLT]

theorem unslice_slice (b : Block) : unslice (slice b) = b := by
  refine BitVec.eq_of_getLsbD_eq fun i hi => ?_
  have hword : i / 4 < 32 := by omega
  have hpos : 4 * (i / 4) + i % 4 = i := Nat.div_add_mod i 4
  simp only [unslice, slice, getLsbD_ofBits, hi, hword, decide_true, Bool.true_and]
  obtain h | h | h | h : i % 4 = 0 ∨ i % 4 = 1 ∨ i % 4 = 2 ∨ i % 4 = 3 := by omega
  all_goals
    rw [h] at hpos ⊢
    exact congrArg b.getLsbD hpos

theorem slice_unslice (s : Slices) : slice (unslice s) = s := by
  refine slices_ext fun j hj => ?_
  have hlt : 4 * j < 128 ∧ 4 * j + 1 < 128 ∧ 4 * j + 2 < 128 ∧ 4 * j + 3 < 128 := by omega
  simp only [slice, unslice, getLsbD_ofBits]
  simp [Nat.mul_add_div, hlt, hj]

theorem unwords_blockWords (x : Block) : unwords (blockWords x) = x :=
  tag128_setTag128 x State.reset

/-- The words of a block built from four words (20_memory.md R202). -/
theorem extractLsb'_append_words (a b c d : Word) :
    (a ++ b ++ c ++ d).extractLsb' 96 32 = a ∧ (a ++ b ++ c ++ d).extractLsb' 64 32 = b ∧
    (a ++ b ++ c ++ d).extractLsb' 32 32 = c ∧ (a ++ b ++ c ++ d).extractLsb' 0 32 = d := by
  refine ⟨?_, ?_, ?_, BitVec.extractLsb'_append_eq_right⟩
  · rw [BitVec.extractLsb'_append_eq_of_le (by decide),
      BitVec.extractLsb'_append_eq_of_le (by decide)]
    exact BitVec.extractLsb'_append_eq_left
  · rw [BitVec.extractLsb'_append_eq_of_le (by decide),
      BitVec.extractLsb'_append_eq_of_le (by decide)]
    exact BitVec.extractLsb'_append_eq_right
  · rw [BitVec.extractLsb'_append_eq_of_le (by decide)]
    exact BitVec.extractLsb'_append_eq_right

theorem blockWords_unwords (s : Slices) : blockWords (unwords s) = s := by
  obtain ⟨h0, h1, h2, h3⟩ := extractLsb'_append_words s.s0 s.s1 s.s2 s.s3
  rw [blockWords, unwords, h0, h1, h2, h3]

/-! ### The layers -/

/-- The gates of R610 compute GS on every column. -/
theorem sliceColumn_bsSubCells (s : Slices) {j : Nat} (hj : j < 32) :
    sliceColumn (bsSubCells s) j = giftSbox (sliceColumn s j) := by
  simp only [sliceColumn, bsSubCells, BitVec.getLsbD_xor, BitVec.getLsbD_and, BitVec.getLsbD_or,
    BitVec.getLsbD_not, hj, decide_true, Bool.true_and]
  generalize s.s0.getLsbD j = b0, s.s1.getLsbD j = b1, s.s2.getLsbD j = b2, s.s3.getLsbD j = b3
  revert b0 b1 b2 b3
  decide

/-- The gates of R611 compute GS_INV on every column. -/
theorem sliceColumn_bsInvSubCells (s : Slices) {j : Nat} (hj : j < 32) :
    sliceColumn (bsInvSubCells s) j = giftSboxInv (sliceColumn s j) := by
  simp only [sliceColumn, bsInvSubCells, BitVec.getLsbD_xor, BitVec.getLsbD_and, BitVec.getLsbD_or,
    BitVec.getLsbD_not, hj, decide_true, Bool.true_and]
  generalize s.s0.getLsbD j = b0, s.s1.getLsbD j = b1, s.s2.getLsbD j = b2, s.s3.getLsbD j = b3
  revert b0 b1 b2 b3
  decide

theorem bsSubCells_slice (b : Block) : bsSubCells (slice b) = slice (giftSubCells b) := by
  refine sliceColumn_ext fun j hj => ?_
  rw [sliceColumn_bsSubCells _ hj, sliceColumn_slice b hj, sliceColumn_slice _ hj,
    giftNibble_giftSubCells giftWidth_128.nibbles b j hj]

theorem bsInvSubCells_slice (b : Block) : bsInvSubCells (slice b) = slice (giftInvSubCells b) := by
  refine sliceColumn_ext fun j hj => ?_
  rw [sliceColumn_bsInvSubCells _ hj, sliceColumn_slice b hj, sliceColumn_slice _ hj,
    giftNibble_giftInvSubCells giftWidth_128.nibbles b j hj]

/-- Slice w of a block: `Sw[j] = b[4j + w]` (42_gift128_bitsliced.md R600). -/
def sliceWord (b : Block) (w : Nat) : Word := ofBits 32 fun j => b.getLsbD (4 * j + w)

theorem slice_eq_sliceWord (b : Block) :
    slice b = ⟨sliceWord b 0, sliceWord b 1, sliceWord b 2, sliceWord b 3⟩ := rfl

/-- P_128 keeps every bit in its slice, where it moves it as Q_w (42_gift128_bitsliced.md R612). -/
theorem giftPerm_slice : ∀ w < 4, ∀ j < 32,
    giftPerm 128 (4 * j + w) = 4 * wordPerm w j + w ∧ wordPerm w j < 32 ∧
    giftPermInv 128 (4 * j + w) = 4 * wordPermInv w j + w ∧ wordPermInv w j < 32 := by
  decide

theorem permWord_sliceWord (b : Block) {w : Nat} (hw : w < 4) :
    permWord w (sliceWord b w) = sliceWord (giftPermBits b) w := by
  refine BitVec.eq_of_getLsbD_eq fun t ht => ?_
  obtain ⟨-, -, hinv, hlt⟩ := giftPerm_slice w hw t ht
  have hbit : 4 * t + w < 128 := by omega
  rw [getLsbD_permWord, sliceWord, sliceWord, getLsbD_ofBits, getLsbD_ofBits, getLsbD_giftPermBits,
    hinv, decide_eq_true ht, decide_eq_true hlt, decide_eq_true hbit, Bool.true_and, Bool.true_and]

theorem invPermWord_sliceWord (b : Block) {w : Nat} (hw : w < 4) :
    invPermWord w (sliceWord b w) = sliceWord (giftInvPermBits b) w := by
  refine BitVec.eq_of_getLsbD_eq fun j hj => ?_
  obtain ⟨hperm, hlt, -, -⟩ := giftPerm_slice w hw j hj
  have hbit : 4 * j + w < 128 := by omega
  rw [getLsbD_invPermWord, sliceWord, sliceWord, getLsbD_ofBits, getLsbD_ofBits,
    getLsbD_giftInvPermBits, hperm, decide_eq_true hj, decide_eq_true hlt, decide_eq_true hbit,
    Bool.true_and, Bool.true_and]

theorem bsPermBits_slice (b : Block) : bsPermBits (slice b) = slice (giftPermBits b) := by
  rw [slice_eq_sliceWord, slice_eq_sliceWord, bsPermBits, permWord_sliceWord b (by decide),
    permWord_sliceWord b (by decide), permWord_sliceWord b (by decide),
    permWord_sliceWord b (by decide)]

theorem bsInvPermBits_slice (b : Block) : bsInvPermBits (slice b) = slice (giftInvPermBits b) := by
  rw [slice_eq_sliceWord, slice_eq_sliceWord, bsInvPermBits, invPermWord_sliceWord b (by decide),
    invPermWord_sliceWord b (by decide), invPermWord_sliceWord b (by decide),
    invPermWord_sliceWord b (by decide)]

/-- The 1 that R614 XORs into S3 is the one of R513. -/
theorem getLsbD_sliceTopBit : ∀ j < 32,
    (0x80000000#32).getLsbD j = decide (4 * j + 3 = 128 - 1) := by decide

theorem bsAddRoundKey_slice (b : Block) (rk : BitVec 32 × BitVec 32) (c : BitVec 6) :
    bsAddRoundKey (slice b) rk c = slice (giftAddRoundKey128 b rk c) := by
  obtain ⟨u, v⟩ := rk
  refine slices_ext fun j hj => ?_
  obtain ⟨h0, h1, h2, h3⟩ := getLsbD_giftRoundMask128 u v c hj
  simp only [bsAddRoundKey, slice, giftAddRoundKey128, giftConstBit, getLsbD_ofBits,
    BitVec.getLsbD_xor, BitVec.getLsbD_setWidth, getLsbD_sliceTopBit j hj, h0, h1, h2, h3, hj,
    decide_true, Bool.true_and, Bool.xor_false, true_and]
  rw [Bool.xor_comm (decide _)]

/-! ### The rounds and the cores -/

theorem bsRound_slice (b : Block) (r : (BitVec 32 × BitVec 32) × BitVec 6) :
    bsRound (slice b) r = slice (giftRound128 b r) := by
  rw [bsRound, bsSubCells_slice, bsPermBits_slice, bsAddRoundKey_slice, giftRound128]

theorem bsInvRound_slice (r : (BitVec 32 × BitVec 32) × BitVec 6) (b : Block) :
    bsInvRound r (slice b) = slice (giftInvRound128 r b) := by
  rw [bsInvRound, bsAddRoundKey_slice, bsInvPermBits_slice, bsInvSubCells_slice, giftInvRound128]

theorem bsCoreEnc_slice (b k : Block) : bsCoreEnc (slice b) k = slice (giftEnc128 b k) :=
  List.foldl_hom slice bsRound_slice

theorem bsCoreDec_slice (b k : Block) : bsCoreDec (slice b) k = slice (giftDec128 b k) :=
  List.foldr_hom slice bsInvRound_slice

/-- Under EQUIV the bit-sliced encryption is the table-driven one (42_gift128_bitsliced.md R630). -/
theorem giftBsEnc_equiv (x k : Block) : giftBsEnc .equiv x k = giftEnc128 x k := by
  rw [giftBsEnc, bsLoad, bsCoreEnc_slice, bsUnload, unslice_slice]

/-- On every packed state the decryption core undoes the encryption core. -/
theorem bsCoreDec_bsCoreEnc (s : Slices) (k : Block) : bsCoreDec (bsCoreEnc s k) k = s := by
  rw [← slice_unslice s, bsCoreEnc_slice, bsCoreDec_slice, giftDec128_giftEnc128]

theorem bsLoad_bsUnload (loading : BsLoading) (s : Slices) : bsLoad loading (bsUnload loading s) = s := by
  cases loading with
  | equiv => exact slice_unslice s
  | sliced => exact blockWords_unwords s

theorem bsUnload_bsLoad (loading : BsLoading) (x : Block) : bsUnload loading (bsLoad loading x) = x := by
  cases loading with
  | equiv => exact unslice_slice x
  | sliced => exact unwords_blockWords x

/-- Under either loading the bit-sliced decryption undoes the encryption (42_gift128_bitsliced.md R632). -/
theorem giftBsDec_giftBsEnc (loading : BsLoading) (x k : Block) :
    giftBsDec loading (giftBsEnc loading x k) k = x := by
  rw [giftBsDec, giftBsEnc, bsLoad_bsUnload, bsCoreDec_bsCoreEnc, bsUnload_bsLoad]

end Sys2Proof.Machine
end

section
/-! SUPPORT. The words with an OP that uses no field (30_encoding.md R310, R320). -/

namespace Sys2Proof

/-- A word with such an OP is illegal unless it is the OP alone. -/
theorem decode_illegal_of_ne_opWord {w : Word} {op : BitVec 8} (hop : fieldOp w = op)
    (hskinny : op ∉ skinnyOps) (hskaead : op ∉ skaeadOps) (hw : w ≠ opWord op) :
    ∃ e, decode w = .error e := by
  subst hop
  refine decode_illegal fun ⟨_, hclear⟩ => hw ?_
  obtain ⟨hrounds, hz, hbs⟩ := hclear.skinny hskinny
  have hword := hclear.eq_commandWord
  rwa [hrounds, hz, hbs, hclear.skaead hskaead] at hword

end Sys2Proof
end

section
/-! SUPPORT. What the commands of the GIFT engines answer, and the registers read back (41_gift.md R540-R543,
42_gift128_bitsliced.md R640, R641). -/

namespace Sys2Proof.Machine

open Sys2Proof

section
variable (s : State)

theorem exec_gift64Enc : exec .gift64Enc s =
    .next (complete .ok (setDout64 (giftEnc64 (din64 s) (key128 s)) s)) := rfl

theorem exec_gift64Dec : exec .gift64Dec s =
    .next (complete .ok (setDout64 (giftDec64 (din64 s) (key128 s)) s)) := rfl

theorem exec_gift128Enc : exec .gift128Enc s =
    .next (complete .ok (setDout128 (giftEnc128 (din128 s) (key128 s)) s)) := rfl

theorem exec_gift128Dec : exec .gift128Dec s =
    .next (complete .ok (setDout128 (giftDec128 (din128 s) (key128 s)) s)) := rfl

theorem exec_gift128bsEnc : exec .gift128bsEnc s = .next (complete .ok
    (setDout128 (giftBsEnc s.params.bsLoading (din128 s) (key128 s)) s)) := rfl

theorem exec_gift128bsDec : exec .gift128bsDec s = .next (complete .ok
    (setDout128 (giftBsDec s.params.bsLoading (din128 s) (key128 s)) s)) := rfl

end

/-- A 64-bit value read from two registers and written to DOUT (20_memory.md R202). -/
theorem setDout64_pairBits (v : Vector Word 4) (s : State) :
    (setDout64 (pairBits v) s).dout[0] = v[0] ∧ (setDout64 (pairBits v) s).dout[1] = v[1] :=
  ⟨BitVec.extractLsb'_append_eq_left, BitVec.extractLsb'_append_eq_right⟩

/-- A 128-bit value read from four registers and written to DOUT (20_memory.md R202). -/
theorem setDout128_quadBits (v : Vector Word 4) (s : State) : (setDout128 (quadBits v) s).dout = v := by
  obtain ⟨h0, h1, h2, h3⟩ := extractLsb'_append_words v[0] v[1] v[2] v[3]
  apply Vector.ext
  intro i hi
  match i with
  | 0 => exact h0
  | 1 => exact h1
  | 2 => exact h2
  | 3 => exact h3

/-- A 64-bit command, DOUT copied to DIN, and the command that inverts it (41_gift.md R522). -/
theorem dout_roundTrip64 {enc dec : Instr} {f g : BitVec 64 → Block → BitVec 64}
    (henc : ∀ s, exec enc s = .next (complete .ok (setDout64 (f (din64 s) (key128 s)) s)))
    (hdec : ∀ s, exec dec s = .next (complete .ok (setDout64 (g (din64 s) (key128 s)) s)))
    (hinv : ∀ p k, g (f p k) k = p) (s : State) :
    ∃ t u, exec enc s = .next t ∧ exec dec { t with din := t.dout } = .next u ∧
      u.dout[0] = s.din[0] ∧ u.dout[1] = s.din[1] := by
  refine ⟨_, _, henc s, hdec _, ?_⟩
  have hback := setDout64_pairBits s.din s
  rw [← hinv (pairBits s.din) (key128 s), ← pairBits_setDout64 (f _ _) s] at hback
  exact hback

/-- The same for a 128-bit command, under the loading in force (42_gift128_bitsliced.md R632). -/
theorem dout_roundTrip128 {enc dec : Instr} {f g : BsLoading → Block → Block → Block}
    (henc : ∀ s, exec enc s =
      .next (complete .ok (setDout128 (f s.params.bsLoading (din128 s) (key128 s)) s)))
    (hdec : ∀ s, exec dec s =
      .next (complete .ok (setDout128 (g s.params.bsLoading (din128 s) (key128 s)) s)))
    (hinv : ∀ loading p k, g loading (f loading p k) k = p) (s : State) :
    ∃ t u, exec enc s = .next t ∧ exec dec { t with din := t.dout } = .next u ∧ u.dout = s.din := by
  refine ⟨_, _, henc s, hdec _, ?_⟩
  have hback := setDout128_quadBits s.din s
  rw [← hinv s.params.bsLoading (quadBits s.din) (key128 s), ← quadBits_setDout128 (f _ _ _) s]
    at hback
  exact hback

/-- Under EQUIV the two GIFT-128 encryption commands leave one DOUT (41_gift.md R542). -/
theorem dout_gift128bsEnc_equiv {s u : State} (hequiv : s.params.bsLoading = .equiv)
    (h : exec .gift128bsEnc s = .next u) :
    u.dout = (setDout128 (giftEnc128 (din128 s) (key128 s)) s).dout := by
  rw [exec_gift128bsEnc, hequiv, giftBsEnc_equiv] at h
  cases h
  rfl

end Sys2Proof.Machine
end

section
/-! PROOFS. The commands of the GIFT engines (41_gift.md R522, R540-R543, 42_gift128_bitsliced.md R632). -/

namespace Sys2Proof.Machine

open Sys2Proof

/-- The example of 41_gift.md R540. -/
theorem giftEnc64_zero : giftEnc64 0#64 0#128 = 0xF62BC3EF34F775AC#64 := by decide +kernel

/-- The example of 41_gift.md R542. -/
theorem giftEnc128_zero : giftEnc128 0#128 0#128 = 0xCD0BD738388AD3F668B15A36CEB6FF92#128 := by
  decide +kernel

/-- Settles O34: the words by their row, R541's example by the round trip, the results in DOUT. -/
theorem gift64CommandsWriteTheirResult : Obligations.Gift64CommandsWriteTheirResult := by
  refine ⟨by decide, fun w hop hw => decode_illegal_of_ne_opWord hop (by decide) (by decide) hw,
    by decide, giftEnc64_zero, ?_, fun s => ⟨?_, ?_⟩⟩
  · rw [← giftEnc64_zero, giftDec64_giftEnc64]
  · exact skinny64_result rfl (exec_gift64Enc s)
  · exact skinny64_result rfl (exec_gift64Dec s)

/-- Settles O35: the same at 128 bits, and EQUIV by the slices of the state. -/
theorem gift128CommandsWriteTheirResult : Obligations.Gift128CommandsWriteTheirResult := by
  refine ⟨by decide, by decide, giftEnc128_zero, ?_, fun s => ⟨?_, ?_⟩⟩
  · rw [← giftEnc128_zero, giftDec128_giftEnc128]
  · obtain ⟨hcompletes, htag, hbuf⟩ := block_keeps (exec_gift128Enc s) rfl
    exact ⟨_, exec_gift128Enc s, quadBits_setDout128 _ s, hcompletes, htag, hbuf,
      fun hequiv u => dout_gift128bsEnc_equiv hequiv⟩
  · exact skinny128_result rfl (exec_gift128Dec s)

/-- Settles O36: each engine's decryption undoes its encryption, so the two commands do. -/
theorem decryptCommandRecoversTheBlock : Obligations.DecryptCommandRecoversTheBlock := by
  intro s
  refine ⟨?_, ?_, ?_⟩
  · exact dout_roundTrip64 exec_gift64Enc exec_gift64Dec giftDec64_giftEnc64 s
  · exact dout_roundTrip128 (f := fun _ => giftEnc128) (g := fun _ => giftDec128) exec_gift128Enc
      exec_gift128Dec (fun _ => giftDec128_giftEnc128) s
  · exact dout_roundTrip128 exec_gift128bsEnc exec_gift128bsDec giftBsDec_giftBsEnc s

end Sys2Proof.Machine
end

section
/-! SUPPORT. The bit-sliced engine as the table-driven one: the same under EQUIV, and between the
transposition T and its inverse under SLICED (42_gift128_bitsliced.md R630, R631). -/

namespace Sys2Proof.Machine

open Sys2Proof

theorem giftBsDec_equiv (x k : Block) : giftBsDec .equiv x k = giftDec128 x k := by
  rw [giftBsDec, bsLoad, bsCoreDec_slice, bsUnload, unslice_slice]

/-! ### The transposition T and its inverse -/

/-- T(X) is the block whose slices are the words of X. -/
theorem slice_bsTranspose (x : Block) : slice (bsTranspose x) = blockWords x :=
  slice_unslice (blockWords x)

theorem bsTransposeInv_bsTranspose (x : Block) : bsTransposeInv (bsTranspose x) = x := by
  rw [bsTransposeInv, slice_bsTranspose, unwords_blockWords]

theorem bsTranspose_bsTransposeInv (x : Block) : bsTranspose (bsTransposeInv x) = x := by
  rw [bsTranspose, bsTransposeInv, blockWords_unwords, unslice_slice]

theorem bsTransposeInv_eq_iff {x y : Block} : bsTransposeInv y = x ↔ y = bsTranspose x := by
  constructor
  · rintro rfl
    exact (bsTranspose_bsTransposeInv y).symm
  · rintro rfl
    exact bsTransposeInv_bsTranspose x

/-- Word w of a block is its bits from `32 * (3 - w)` on, and T puts its bit j at bit `4j + w`. -/
theorem getLsbD_bsTranspose (x : Block) {i : Nat} (hi : i < 128) :
    (bsTranspose x).getLsbD i = x.getLsbD (32 * (3 - i % 4) + i / 4) := by
  have hword : i / 4 < 32 := by omega
  simp only [bsTranspose, unslice, blockWords, getLsbD_ofBits, BitVec.getLsbD_extractLsb', hi, hword,
    decide_true, Bool.true_and]
  obtain h | h | h | h : i % 4 = 0 ∨ i % 4 = 1 ∨ i % 4 = 2 ∨ i % 4 = 3 := by omega
  all_goals
    rw [h]
    rfl

theorem bsTranspose_zero : bsTranspose 0#128 = 0#128 := by
  refine BitVec.eq_of_getLsbD_eq fun i hi => ?_
  rw [getLsbD_bsTranspose _ hi, BitVec.getLsbD_zero, BitVec.getLsbD_zero]

/-- The example of R631. -/
theorem bsTranspose_example :
    bsTranspose 0x000102030405060708090A0B0C0D0E0F#128 = 0x0000CA000000CA0F0000CAF00000CAFF#128 := by
  decide +kernel

/-! ### The loadings -/

/-- R631's sentence on T(X) = X, of the slices that the core is given. -/
theorem bsLoad_sliced_eq_bsLoad_equiv_iff (x : Block) :
    bsLoad .sliced x = bsLoad .equiv x ↔ bsTranspose x = x := by
  rw [bsLoad, bsLoad, ← slice_bsTranspose]
  exact (Function.LeftInverse.injective unslice_slice).eq_iff

/-- The core sees the words of X as the slices of T(X), and Tinv reads its slices back as words. -/
theorem giftBsEnc_sliced (x k : Block) :
    giftBsEnc .sliced x k = bsTransposeInv (giftEnc128 (bsTranspose x) k) := by
  rw [giftBsEnc, bsLoad, ← slice_bsTranspose, bsCoreEnc_slice, bsUnload, bsTransposeInv]

/-- V3.2, the example of R640 under SLICED: Tinv of V3.1, since T fixes the block 0. -/
theorem giftBsEnc_sliced_zero :
    giftBsEnc .sliced 0#128 0#128 = 0x5E8E3A2E1697A77DCC0B89DCD97A64EE#128 := by
  rw [giftBsEnc_sliced, bsTranspose_zero, giftEnc128_zero]
  decide

end Sys2Proof.Machine
end

section
/-! PROOFS. The bit-sliced GIFT-128 (42_gift128_bitsliced.md R630-R632, R640, R641). -/

namespace Sys2Proof.Machine

open Sys2Proof

/-- Settles O37: the cores on a sliced block are the table-driven ciphers, sliced. -/
theorem bitslicedEqualsTableDriven : Obligations.BitslicedEqualsTableDriven :=
  fun x k => ⟨giftBsEnc_equiv x k, giftBsDec_equiv x k⟩

/-- Settles O38: the words of X are the slices of T(X). -/
theorem slicedLoadingIsATransposition : Obligations.SlicedLoadingIsATransposition :=
  ⟨giftBsEnc_sliced, fun x => ⟨bsTransposeInv_bsTranspose x, bsTranspose_bsTransposeInv x⟩,
    fun x _ hi => getLsbD_bsTranspose x hi, bsTranspose_example⟩

/-- Settles O39: T taken to the other side of R631's equation, and the two values at the block 0. -/
theorem slicedDiffersAtAFixedPointOfT : Obligations.SlicedDiffersAtAFixedPointOfT := by
  refine ⟨bsLoad_sliced_eq_bsLoad_equiv_iff, fun x k => ?_, bsTranspose_zero, giftBsEnc_sliced_zero,
    giftEnc128_zero, ?_⟩
  · rw [giftBsEnc_sliced, bsTransposeInv_eq_iff]
  · rw [giftBsEnc_sliced_zero, giftEnc128_zero]
    decide

/-- Settles O40: loading undoes unloading, and the decryption core the encryption core. -/
theorem bitslicedRoundTrip : Obligations.BitslicedRoundTrip := giftBsDec_giftBsEnc

/-- Settles O41: the words by their row, the EQUIV examples as those of R542 and R543, the results in
DOUT. -/
theorem bitslicedCommandsWriteTheirResult : Obligations.BitslicedCommandsWriteTheirResult := by
  refine ⟨by decide, by decide, ?_, giftBsEnc_sliced_zero, ?_, fun s => ⟨?_, ?_⟩⟩
  · rw [giftBsEnc_equiv, giftEnc128_zero]
  · rw [giftBsDec_equiv, ← giftEnc128_zero, giftDec128_giftEnc128]
  · exact skinny128_result rfl (exec_gift128bsEnc s)
  · exact skinny128_result rfl (exec_gift128bsDec s)

end Sys2Proof.Machine
end

section
/-! SUPPORT. Each layer of SKINNY one cell at a time, and the tweakey schedule (43_skinny.md R705-R714). -/

namespace Sys2Proof.Machine

open Sys2Proof

/-! ### SubCells, AddConstants, AddRoundTweakey, ShiftRows -/

theorem skCell_skSubCells (n : BlockSize) (s : BitVec (blockBits n)) {i : Nat} (hi : i < 16) :
    skCell n (skSubCells n s) i = skSbox n (skCell n s i) := skCell_skPack n _ i hi

theorem skCell_skInvSubCells (n : BlockSize) (s : BitVec (blockBits n)) {i : Nat} (hi : i < 16) :
    skCell n (skInvSubCells n s) i = skSboxInv n (skCell n s i) := skCell_skPack n _ i hi

theorem skCell_skAddConstants (n : BlockSize) (s : BitVec (blockBits n)) (rc : BitVec 6) {i : Nat}
    (hi : i < 16) : skCell n (skAddConstants n s rc) i = skCell n s i ^^^ skConstant n rc i :=
  skCell_skPack n _ i hi

/-- The constant of cell 8 is 2 at both cell widths (43_skinny.md R709). -/
theorem setWidth_two_cellBits (n : BlockSize) : (0x2#4).setWidth (cellBits n) = 2#(cellBits n) := by
  cases n <;> rfl

theorem skCell_skAddRoundTweakey (n : BlockSize) (z : Nat) (s : BitVec (blockBits n)) (tk : Tweakey n)
    {i : Nat} (hi : i < 16) :
    skCell n (skAddRoundTweakey n z s tk) i = skCell n s i ^^^ skRoundTweakey n z tk i :=
  skCell_skPack n _ i hi

/-- The tables of ShiftRows rotate row r by r cells, right and left (43_skinny.md R706). -/
theorem skShiftIndex_row : ∀ r < 4, ∀ c < 4,
    skShiftIndex.getD (4 * r + c) 0 = 4 * r + (c + 4 - r) % 4 ∧
      skShiftIndexInv.getD (4 * r + c) 0 = 4 * r + (c + r) % 4 := by decide

theorem skCell_skShiftRows (n : BlockSize) (s : BitVec (blockBits n)) {r c : Nat} (hr : r < 4)
    (hc : c < 4) :
    skCell n (skShiftRows n s) (4 * r + c) = skCell n s (4 * r + (c + 4 - r) % 4) := by
  rw [skShiftRows, skCell_skPack n _ _ (by omega), (skShiftIndex_row r hr c hc).1]

theorem skCell_skInvShiftRows (n : BlockSize) (s : BitVec (blockBits n)) {r c : Nat} (hr : r < 4)
    (hc : c < 4) :
    skCell n (skInvShiftRows n s) (4 * r + c) = skCell n s (4 * r + (c + r) % 4) := by
  rw [skInvShiftRows, skCell_skPack n _ _ (by omega), (skShiftIndex_row r hr c hc).2]

/-! ### The tweakey schedule -/

theorem skTweakeyArray_eq (n : BlockSize) (bits : BitVec 384) (t : Nat) :
    skTweakeyArray n bits t = bits.extractLsb' (384 - t * blockBits n) (blockBits n) := by
  rw [skTweakeyArray, Nat.mul_comm]

/-- P_T has an entry for each of the 16 cells. -/
theorem skTweakeyIndex_of_getElem? {i j : Nat} (h : skTweakeyIndex[i]? = some j) :
    i < 16 ∧ skTweakeyIndex.getD i 0 = j := by
  obtain ⟨hi, -⟩ := List.getElem?_eq_some_iff.mp h
  exact ⟨hi, by rw [List.getD_eq_getElem?_getD, h, Option.getD_some]⟩

theorem skCell_skPermuteTweakey (n : BlockSize) (tk : BitVec (blockBits n)) {i j : Nat}
    (h : skTweakeyIndex[i]? = some j) : skCell n (skPermuteTweakey n tk) i = skCell n tk j := by
  obtain ⟨hi, hj⟩ := skTweakeyIndex_of_getElem? h
  rw [skPermuteTweakey, skCell_skPack n _ i hi, hj]

/-- An array permuted, then an LFSR on rows 0 and 1 (43_skinny.md R712-R714). -/
theorem skCell_skMapTopRows_skPermuteTweakey (n : BlockSize)
    (f : BitVec (cellBits n) → BitVec (cellBits n)) (tk : BitVec (blockBits n)) {i j : Nat}
    (h : skTweakeyIndex[i]? = some j) :
    skCell n (skMapTopRows n f (skPermuteTweakey n tk)) i =
      if i < 8 then f (skCell n tk j) else skCell n tk j := by
  rw [skMapTopRows, skCell_skPack n _ i (skTweakeyIndex_of_getElem? h).1,
    skCell_skPermuteTweakey n tk h]

/-! ### The LFSRs -/

/-- A bit shifted in from below is appended to the value without its top bit. -/
theorem shiftLeft_one_or_bit {w : Nat} (x : BitVec (w + 1)) (b : Bool) :
    x <<< 1 ||| (BitVec.ofBool b).setWidth (w + 1) = x.extractLsb' 0 w ++ BitVec.ofBool b := by
  refine BitVec.eq_of_getLsbD_eq fun i hi => ?_
  rw [BitVec.getLsbD_append]
  cases i with
  | zero => simp
  | succ i => simp [hi, Nat.lt_of_succ_lt_succ hi, -BitVec.getLsbD_eq_getElem]

/-- A bit shifted in from above is prepended to the value without its low bit. -/
theorem ushiftRight_one_or_bit {w : Nat} (x : BitVec (w + 1)) (b : Bool) :
    x >>> 1 ||| (BitVec.ofBool b).setWidth (w + 1) <<< w =
      (BitVec.ofBool b ++ x.extractLsb' 1 w).cast (Nat.add_comm 1 w) := by
  refine BitVec.eq_of_getLsbD_eq fun i hi => ?_
  rw [BitVec.getLsbD_cast, BitVec.getLsbD_append]
  by_cases h : i < w
  · simp [h]
  · obtain rfl : i = w := by omega
    simp

theorem extractLsb'_one_xor {w : Nat} (x : BitVec w) (i j : Nat) :
    x.extractLsb' i 1 ^^^ x.extractLsb' j 1 = BitVec.ofBool (x.getLsbD i ^^ x.getLsbD j) := by
  refine BitVec.eq_of_getLsbD_eq fun k hk => ?_
  obtain rfl : k = 0 := by omega
  simp

theorem skLfsr_n64 (x : Nibble) :
    skLfsr2 .n64 x = x.extractLsb' 0 3 ++ (x.extractLsb' 3 1 ^^^ x.extractLsb' 2 1) ∧
    skLfsr3 .n64 x = (x.extractLsb' 0 1 ^^^ x.extractLsb' 3 1) ++ x.extractLsb' 1 3 := by
  rw [extractLsb'_one_xor, extractLsb'_one_xor]
  exact ⟨shiftLeft_one_or_bit (w := 3) x _, ushiftRight_one_or_bit (w := 3) x _⟩

theorem skLfsr_n128 (x : Byte) :
    skLfsr2 .n128 x = x.extractLsb' 0 7 ++ (x.extractLsb' 7 1 ^^^ x.extractLsb' 5 1) ∧
    skLfsr3 .n128 x = (x.extractLsb' 0 1 ^^^ x.extractLsb' 6 1) ++ x.extractLsb' 1 7 := by
  rw [extractLsb'_one_xor, extractLsb'_one_xor]
  exact ⟨shiftLeft_one_or_bit (w := 7) x _, ushiftRight_one_or_bit (w := 7) x _⟩

end Sys2Proof.Machine
end

section
/-! SUPPORT. SKINNY as loops over its rounds (43_skinny.md R715, R720, R721). -/

namespace Sys2Proof.Machine

open Sys2Proof

theorem skTweakeyStates_eq_map (n : BlockSize) (rounds : Nat) (tk : Tweakey n) :
    skTweakeyStates n rounds tk = (List.range rounds).map fun r => (skUpdateTweakey n)^[r] tk := by
  induction rounds generalizing tk with
  | zero => rfl
  | succ rounds ih =>
    rw [skTweakeyStates, ih, List.range_succ_eq_map, List.map_cons, List.map_map]
    rfl

/-- Round r has the arrays after r updates and RC[r] (43_skinny.md R715, R709). -/
theorem skRounds_eq_map (n : BlockSize) (z rounds : Nat) (bits : BitVec 384) :
    skRounds n z rounds bits = (List.range rounds).map fun r =>
      ((skUpdateTweakey n)^[r] (skLoadTweakey n z bits), roundConstant r) := by
  rw [skRounds, skTweakeyStates_eq_map, roundConstants_eq_map, List.zip_map']

theorem skinnyEncrypt_eq_loop (n : BlockSize) (z rounds : Nat) (bits : BitVec 384)
    (x : BitVec (blockBits n)) :
    skinnyEncrypt n z rounds bits x = (List.range rounds).foldl (fun s r =>
      skRound n z s ((skUpdateTweakey n)^[r] (skLoadTweakey n z bits), roundConstant r)) x := by
  rw [skinnyEncrypt, skRounds_eq_map, List.foldl_map]

theorem skinnyDecrypt_eq_loop (n : BlockSize) (z rounds : Nat) (bits : BitVec 384)
    (x : BitVec (blockBits n)) :
    skinnyDecrypt n z rounds bits x = (List.range rounds).reverse.foldl (fun s r =>
      skInvRound n z ((skUpdateTweakey n)^[r] (skLoadTweakey n z bits), roundConstant r) s) x := by
  rw [skinnyDecrypt, skRounds_eq_map, foldr_map_range]

end Sys2Proof.Machine
end

section
/-! PROOFS. The SKINNY cipher (43_skinny.md R700-R722). -/

namespace Sys2Proof.Machine

open Sys2Proof

/-- Settles O42: the layers by their cells and columns, the schedule by its arrays, then the list of
rounds by their numbers. -/
theorem skinnyRunsItsRoundsInOrder : Obligations.SkinnyRunsItsRoundsInOrder := by
  refine ⟨fun _ _ _ => rfl, fun _ _ _ => rfl, fun _ => ⟨rfl, rfl⟩, fun _ => ⟨rfl, rfl⟩,
    fun n s rc i hi => ?subCellsAndConstants, fun n s r c hr hc => ?shiftRows,
    fun n s j hj => ?mixColumns, fun n z bits => ?load,
    fun n z s tk i hi => skCell_skAddRoundTweakey n z s tk hi,
    fun n tk i j h => ?update, skLfsr_n64, skLfsr_n128, fun n z rounds bits x => ?loops⟩
  case subCellsAndConstants =>
    refine ⟨skCell_skSubCells n s hi, skCell_skInvSubCells n s hi, ?_⟩
    rw [skCell_skAddConstants n s rc hi, skConstant, setWidth_two_cellBits]
  case shiftRows => exact ⟨skCell_skShiftRows n s hr hc, skCell_skInvShiftRows n s hr hc⟩
  case mixColumns =>
    obtain ⟨m0, m4, m8, m12⟩ := skCell_skMixColumns n s hj
    obtain ⟨i0, i4, i8, i12⟩ := skCell_skInvMixColumns n s hj
    rw [Nat.add_comm 4, Nat.add_comm 8, Nat.add_comm 12]
    exact ⟨m0, m4, m8, m12, i0, i4, i8, i12⟩
  case load =>
    exact ⟨(skTweakeyArray_eq n bits 1).trans (by rw [Nat.one_mul]),
      fun h => (if_pos h).trans (skTweakeyArray_eq n bits 2),
      fun h => (if_pos h).trans (skTweakeyArray_eq n bits 3)⟩
  case update =>
    exact ⟨skCell_skPermuteTweakey n tk.tk1 h,
      skCell_skMapTopRows_skPermuteTweakey n (skLfsr2 n) tk.tk2 h,
      skCell_skMapTopRows_skPermuteTweakey n (skLfsr3 n) tk.tk3 h⟩
  case loops => exact ⟨skinnyEncrypt_eq_loop n z rounds bits x, skinnyDecrypt_eq_loop n z rounds bits x⟩

/-- Settles O43: every decryption round undoes its encryption round. -/
theorem skinnyRoundTrip : Obligations.SkinnyRoundTrip := skinnyDecrypt_skinnyEncrypt

end Sys2Proof.Machine
end

section
/-! SUPPORT. The GIFT-COFB commands when they do not succeed, and GIFT-COFB with no message
(44_gift_cofb.md R812, R830, R831). -/

namespace Sys2Proof.Machine

open Sys2Proof

theorem exec_cofb_precond {s : State} (h : ¬ RegionsFit s) :
    exec .cofbEnc s = .next (complete .precond s) ∧
    exec .cofbDec s = .next (complete .precond s) :=
  have hfit : ¬ regionsOk s = true := mt (regionsOk_iff s).mp h
  ⟨if_neg hfit, if_neg hfit⟩

theorem exec_cofbDec_of_not_auth {s : State} (hfit : regionsOk s = true)
    (hr : (cofbDecrypt s.params.bsLoading (key128 s) (nonce128 s) (adNibbles s) (msgNibbles s)).2 ≠
      tag128 s) : exec .cofbDec s = .next (complete .auth s) :=
  (if_pos hfit).trans (if_neg hr)

/-- Without a message no block depends on the direction, so the tags are the same. -/
theorem cofbDecrypt_nil (loading : BsLoading) (k nonce : Block) (ad : List Nibble) :
    cofbDecrypt loading k nonce ad [] = cofbEncrypt loading k nonce ad [] := rfl

/-- The example tag of 44_gift_cofb.md R830. -/
theorem cofbEncrypt_sliced_empty_tag :
    (cofbEncrypt .sliced 0x000102030405060708090A0B0C0D0E0F#128
      0x000102030405060708090A0B0C0D0E0F#128 [] []).2 = 0x368965836D36614DE2FC24D0F801B9AF#128 := by
  decide +kernel

end Sys2Proof.Machine
end

section
/-! PROOFS. GIFT-COFB and its commands (44_gift_cofb.md R814, R830, R831). -/

namespace Sys2Proof.Machine

open Sys2Proof

/-- Settles O50: the decryption's blocks, masks and cipher inputs are those of the encryption. -/
theorem cofbRoundTrip : Obligations.CofbRoundTrip := cofbDecrypt_cofbEncrypt

/-- Settles O52: the command ends with PRECOND or seals an output of the message's length. -/
theorem cofbEncryptCommand : Obligations.CofbEncryptCommand := by
  refine ⟨by decide, cofbEncrypt_sliced_empty_tag,
    fun s => ⟨fun hfit => (exec_cofb_precond hfit).1, fun hfit => ?_⟩⟩
  have hexec := exec_cofbEnc_of_fit ((regionsOk_iff s).mpr hfit) rfl
  have hends := ends_of_exec hexec
  refine ⟨_, hexec, writesOutput_of_bufByte_eq ?_ fun _ => rfl, tag128_setTag128 _ s,
    hends.dout_eq nofun rfl, hends.completesWith nofun⟩
  exact (length_cofbEncrypt ..).trans (length_msgNibbles s)

/-- Settles O53: the three ends by the range check and the comparison of the tags. -/
theorem cofbDecryptCommand : Obligations.CofbDecryptCommand := by
  refine ⟨by decide, ?_, fun s => ⟨fun hfit => (exec_cofb_precond hfit).2,
    fun hfit hne => exec_cofbDec_of_not_auth ((regionsOk_iff s).mpr hfit) hne, fun hfit heq => ?_⟩⟩
  · rw [cofbDecrypt_nil, cofbEncrypt_sliced_empty_tag]
  · have hexec := exec_cofbDec_of_auth ((regionsOk_iff s).mpr hfit) (Prod.ext rfl heq)
    have hends := ends_of_exec hexec
    refine ⟨_, hexec, writesOutput_of_bufByte_eq ?_ fun _ => rfl, hends.tag_eq nofun rfl,
      hends.dout_eq nofun rfl, hends.completesWith nofun⟩
    exact (length_cofbDecrypt ..).trans (length_msgNibbles s)

end Sys2Proof.Machine
end

section
/-! SUPPORT. SKINNY-AEAD on a whole string as the two loops that the rules write, and its parameters by the
member and the tag rule (45_skinny_aead.md R900, R902, R903, R910, R913, R915). -/

namespace Sys2Proof.Machine

open Sys2Proof

theorem blocksIfAny_eq_ite (v : List Nibble) :
    blocksIfAny v = if v.length = 0 then [] else split v := by
  simp only [blocksIfAny, List.length_eq_zero_iff]

theorem length_le_of_mem_blocksIfAny {v b : List Nibble} (h : b ∈ blocksIfAny v) : b.length ≤ 32 := by
  unfold blocksIfAny at h
  split at h
  · simp at h
  · exact length_le_of_mem_split h

/-! ### The passes -/

/-- Both passes run over the blocks of their string, none for the empty one. -/
theorem skaead_eq_passes (x : SkaeadContext) (rule : TagRule) (dir : Direction)
    (ad msg : List Nibble) :
    let pass := skaeadMessagePass x dir (blocksIfAny msg) 1#64 0#128 false
    let role := skaeadTagRole rule msg.length pass.lastPartial
    skaead x rule dir ad msg = (pass.out, skaeadE x pass.lfsr role pass.sigma ^^^
      skaeadAdPass x (blocksIfAny ad) 1#64 0#128) := by
  have hmsg : skaeadMessagePass x dir (blocksIfAny msg) 1#64 0#128 false =
      if msg.length = 0 then ⟨[], 0#128, 1#64, false⟩
      else skaeadMessagePass x dir (split msg) 1#64 0#128 false := by
    rw [blocksIfAny_eq_ite]
    split <;> rfl
  have had : skaeadAdPass x (blocksIfAny ad) 1#64 0#128 =
      if ad.length = 0 then 0#128 else skaeadAdPass x (split ad) 1#64 0#128 := by
    rw [blocksIfAny_eq_ite]
    split <;> rfl
  rw [hmsg, had]
  rfl

/-- Both passes as their loops, the cipher and its inverse as functions of counter and role index. -/
theorem skaead_eq_loops (x : SkaeadContext) (rule : TagRule) (dir : Direction)
    {e d : BitVec 64 → Byte → Block → Block}
    (he : ∀ lfsr role m, e lfsr (roleIndex role) m = skaeadE x lfsr role m)
    (hd : ∀ lfsr role m, d lfsr (roleIndex role) m = skaeadD x lfsr role m)
    (ad msg : List Nibble) :
    let p := skaeadLoop e d dir (blocksIfAny msg)
    let role := roleIndex (skaeadTagRole rule msg.length p.lastPartial)
    skaead x rule dir ad msg =
      (p.out, e p.lfsr role p.sigma ^^^ (skaeadAdLoop e (blocksIfAny ad)).2) := by
  intro p role
  obtain ⟨hout, hsigma, hlfsr, hlast⟩ := skaeadMessagePass_eq_loop x dir e d he hd (blocksIfAny msg)
    { lfsr := 1#64, sigma := 0#128, out := [], lastPartial := false }
    fun _ => length_le_of_mem_blocksIfAny
  have had := skaeadAdPass_eq_loop x e he (blocksIfAny ad) 1#64 0#128
  rw [List.nil_append] at hout
  rw [skaead_eq_passes, ← hout, ← hsigma, ← hlfsr, ← hlast, had, ← he]
  rfl

/-- The ciphertext is what the message pass puts out: no tag rule and no associated data enter it. -/
theorem skaeadEncrypt_fst (bits : MemberBits) (rule : TagRule) (member : Member) (k nonce : Block)
    (ad msg : List Nibble) :
    (skaeadEncrypt bits rule member k nonce ad msg).1 =
      (skaeadMessagePass (skaeadContext bits member k nonce) .encrypt (blocksIfAny msg) 1#64 0#128
        false).out :=
  congrArg Prod.fst (skaead_eq_passes _ rule _ ad _)

/-! ### Member and tag rule -/

theorem memberNonce_eq (member : Member) (nonce : Block) :
    memberNonce member nonce =
      if member = .m1 ∨ member = .m3 then nonce else nonce.extractLsb' 32 96 ++ 0#32 := by
  cases member <;> rfl

theorem skaeadTruncate_eq (member : Member) (t : Block) :
    skaeadTruncate member t = if member = .m1 ∨ member = .m2 then SkaeadTag.full t
      else SkaeadTag.short (t.extractLsb' 64 64) := by
  cases member <;> rfl

theorem roleIndex_skaeadTagRole_doc (len : Nat) (lastPartial : Bool) :
    roleIndex (skaeadTagRole .doc len lastPartial) = if len = 0 then 0x04#8 else 0x05#8 :=
  apply_ite roleIndex ..

theorem roleIndex_skaeadTagRole_published (len : Nat) (lastPartial : Bool) :
    roleIndex (skaeadTagRole .published len lastPartial) =
      if lastPartial then 0x05#8 else 0x04#8 :=
  apply_ite roleIndex ..

end Sys2Proof.Machine
end

section
/-! PROOFS. The SKINNY-AEAD algorithm (45_skinny_aead.md R902, R910, R913, R916, R917). -/

namespace Sys2Proof.Machine

open Sys2Proof

/-- Settles O55: the decryption's blocks, counters and cipher inputs are those of the encryption, and the
ciphertext is the output of the message pass alone. -/
theorem skinnyAeadRoundTrip : Obligations.SkinnyAeadRoundTrip :=
  fun bits rule member k nonce ad msg =>
    have hct (rule' : TagRule) (ad' : List Nibble) :
        (skaeadEncrypt bits rule' member k nonce ad' msg).1 =
          (skaeadEncrypt bits rule member k nonce ad msg).1 :=
      (skaeadEncrypt_fst ..).trans (skaeadEncrypt_fst ..).symm
    ⟨skaeadDecrypt_skaeadEncrypt .., hct rule, fun rule' => hct rule' ad⟩

/-- Settles O60: both directions are the loops under the context of the member, then the tag role by the
rule and the tag by the member's width. -/
theorem skinnyAeadRunsItsPasses : Obligations.SkinnyAeadRunsItsPasses := by
  intro bits rule member k nonce ad msg mb nn e d auth result
  have hcontext : skaeadContext bits member k nonce = ⟨mb, nn, k⟩ := by
    rw [skaeadContext, memberNonce_eq]
    cases member <;> rfl
  have hresult (p : SkaeadLoop) : (p.out, skaeadTruncate member
      (e p.lfsr (roleIndex (skaeadTagRole rule msg.length p.lastPartial)) p.sigma ^^^ auth)) =
      result p := by
    rw [skaeadTruncate_eq]
    cases rule with
    | doc => rw [roleIndex_skaeadTagRole_doc]
    | published => rw [roleIndex_skaeadTagRole_published]
  have hloops (dir : Direction) := skaead_eq_loops ⟨mb, nn, k⟩ rule dir (e := e) (d := d)
    (fun _ _ _ => rfl) (fun _ _ _ => rfl) ad msg
  constructor
  · rw [← hresult, skaeadEncrypt, hcontext, hloops]
  · rw [← hresult, skaeadDecrypt, hcontext, hloops]

end Sys2Proof.Machine
end

section
/-! SUPPORT. Idle turns, the end of every command, the reset event as the bus sees it, and BUF beyond its
last byte (46_system.md R1010, R1012; 60_exceptions.md R1100; 70_reset_and_hazards.md R1200, R1201). -/

namespace Sys2Proof.Machine

open Sys2Proof

/-! ### Turns while IDLE -/

theorem completeTurn_idle {s : State} (hs : s.seq = .idle) : completeTurn s = .next s := by
  simp [completeTurn, wordInFlight, hs]

theorem step_default_idle {s : State} (h : s.schedule = []) (hs : s.seq = .idle) :
    step s = .next (hostTurn s) := by
  simp [step, scheduledStep, h, defaultTurn, not_isBusy_of_idle hs, takeTurn]

/-! ### The end of a command -/

/-- `t` is a completion of `s`: DONE is set, nothing is in flight, and an error code is the only other
change (60_exceptions.md R1100). -/
def CompletionOf (s t : State) : Prop :=
  t.done = true ∧ t.seq = .idle ∧ (t.err ≠ .ok → t = complete t.err s)

theorem completionOf_complete (code : ErrCode) (s : State) : CompletionOf s (complete code s) :=
  ⟨rfl, rfl, fun _ => rfl⟩

theorem Ends.completionOf {s t : State} {i : Instr} (h : Ends s i t) : CompletionOf s t := by
  cases h with
  | nop | error => exact completionOf_complete _ s
  | clear | block | output | sealed => exact ⟨rfl, rfl, fun herr => absurd rfl herr⟩

/-- A word in flight, legal or not, ends with a completion. -/
theorem completeTurn_completes {s : State} {w : Word} (hs : s.seq = .busy w) :
    ∃ t, completeTurn s = .next t ∧ CompletionOf s t := by
  rcases completeTurn_cases s with ⟨hidle, -⟩ | ⟨_, i, -, -, hexec⟩ | ⟨_, _, -, -, hraise⟩
  · rw [hs] at hidle
    cases hidle
  · obtain ⟨t, ht, hends⟩ := exec_ends i s
    exact ⟨t, hexec.trans ht, hends.completionOf⟩
  · exact ⟨_, hraise, completionOf_complete .illegal s⟩

/-- STATUS reads the code, WERR and DONE after a completion, and BUSY = 0 (10_state.md R112, R162). -/
theorem statusWord_complete (code : ErrCode) (s : State) :
    statusWord (complete code s) =
      0#24 ++ errBits code ++ 0#1 ++ BitVec.ofBool s.werr ++ 1#1 ++ 0#1 := rfl

theorem exec_nop (s : State) : exec .nop s = .next (complete .ok s) := rfl

theorem exec_clear (s : State) : exec .clear s = .next (complete .ok (clearData s)) := rfl

/-! ### The reset event on the bus -/

/-- After the reset event a register reads what it reads in the reset state; BUF alone depends on the
parameters and the draw. -/
theorem readIdle_resetEvent {t : Target} (ht : ∀ w, t ≠ .buf w) (s : State) :
    readIdle (resetEvent s) t = readIdle State.reset t := by
  cases t with
  | buf w => exact absurd rfl (ht w)
  | _ => rfl

theorem hostRead_resetEvent {off : BitVec 13} (hoff : off.toNat / 4 < 0x1000 / 4) (s : State) :
    hostRead (resetEvent s) off = hostRead State.reset off := by
  rw [hostRead_idle (resetEvent_seq s), hostRead_idle (s := State.reset) rfl,
    readIdle_resetEvent fun w ht => ?_]
  have := div_four_of_targetOf ht rfl
  omega

/-! ### BUF after a reset and beyond its last byte -/

theorem bufByte_resetEvent (s : State) (a : Nat) :
    bufByte (resetEvent s) a = Config.bufDraw (s.resets + 1) a := rfl

theorem cellRead_eq_none {m : Memory} {a : Nat} (h : ∀ p ∈ m, p.1 ≠ a) : cellRead m a = none := by
  induction m with
  | nil => rfl
  | cons p rest ih =>
    obtain ⟨hp, hrest⟩ := List.forall_mem_cons.mp h
    exact (if_neg hp).trans (ih hrest)

theorem Memory.lt_of_wf {bound : Nat} {m : Memory} (h : m.wf bound = true) :
    ∀ p ∈ m, p.1 < bound := by
  induction m with
  | nil => nofun
  | cons p rest ih =>
    obtain ⟨hp, hrest, -⟩ := (Memory.wf_cons bound p.1 p.2 rest).mp h
    exact List.forall_mem_cons.mpr ⟨hp, ih hrest⟩

/-- No byte beyond BUF is ever written: it reads the draw (10_state.md R150). -/
theorem bufByte_beyond {s : State} (h : s.buf.wf s.params.bufBytes = true) {a : Nat}
    (ha : s.params.bufBytes ≤ a) : bufByte s a = Config.bufDraw s.resets a := by
  have hnone : cellRead s.buf a = none :=
    cellRead_eq_none fun p hp => Nat.ne_of_lt ((Memory.lt_of_wf h p hp).trans_le ha)
  rw [bufByte, hnone]
  rfl

theorem bufByte_clearData {s : State} {a : Nat} (ha : a < s.params.bufBytes) :
    bufByte (clearData s) a = 0x00#8 := by
  rw [bufByte, clearData_buf, cellRead_zeroCells _ _ ha]
  rfl

theorem bufByte_clearData_beyond {s : State} (h : s.buf.wf s.params.bufBytes = true) {a : Nat}
    (ha : s.params.bufBytes ≤ a) : bufByte (clearData s) a = bufByte s a :=
  (bufByte_beyond (s := clearData s) (Memory.wf_zeroCells _) ha).trans (bufByte_beyond h ha).symm

end Sys2Proof.Machine
end

section
/-! PROOFS. Steps, completion, reset and the system commands (46_system.md). -/

namespace Sys2Proof.Machine

open Sys2Proof

/-- Settles O19: the registers read as in the reset state, whatever was in flight, and BUF at the new
draw. -/
theorem resetEventAbandonsTheCommand : Obligations.ResetEventAbandonsTheCommand := by
  intro s rest hsched
  obtain ⟨hread, -⟩ := resetStateHoldsTheResetValues
  exact ⟨_, step_scheduled hsched,
    fun off hoff => (hostRead_resetEvent hoff _).trans (hread off hoff),
    zero12_getElem, rfl, rfl, rfl, rfl, rfl, bufByte_resetEvent _, rfl, rfl, rfl, rfl, rfl⟩

/-- Settles O20: the completion leaves nothing in flight for a second one. -/
theorem everyCommandCompletesOnce : Obligations.EveryCommandCompletesOnce := by
  intro s w hs
  obtain ⟨t, ht, hdone, hidle, herror⟩ := completeTurn_completes hs
  exact ⟨t, ht, hdone, hidle, completeTurn_idle hidle, herror⟩

/-- Settles O28: CLEAR writes every byte below BUF_BYTES, and no byte beyond it was ever written. -/
theorem clearZeroisesEverything : Obligations.ClearZeroisesEverything := by
  refine ⟨by decide, fun s => ⟨_, exec_clear s, zero12_getElem,
    fun i => ⟨zero4_getElem i, zero4_getElem i, zero4_getElem i, zero4_getElem i⟩,
    rfl, rfl, rfl, rfl, rfl, fun a ha => bufByte_clearData ha,
    fun hwf a ha => bufByte_clearData_beyond hwf ha, ?_⟩⟩
  exact ⟨rfl, rfl, rfl, rfl, rfl, rfl, rfl, rfl, rfl, rfl, rfl, rfl⟩

/-- Settles O7, by the head of the schedule. -/
theorem stepTakesTheScheduledTurn : Obligations.StepTakesTheScheduledTurn := by
  refine fun s => ⟨fun rest h => step_scheduled h, fun rest h => step_scheduled h,
    fun rest h hs => ?_, step_default_idle, fun h hs hprogram => ?_⟩
  · exact (step_complete h).trans (completeTurn_idle (s := { s with schedule := rest }) hs)
  · rw [step_default_idle h hs, hostTurn_nil hprogram]

/-- Settles O27: NOP is the bare completion, and OP 0x00 uses no field. -/
theorem nopHasNoEffect : Obligations.NopHasNoEffect := by
  refine ⟨by decide, fun w hop hw => decode_illegal_of_ne_opWord hop (by decide) (by decide) hw,
    rfl, rfl, fun s => ⟨exec_nop s, fun t ht hwerr => ?_⟩⟩
  obtain rfl := (succeed_eq_next s t).mp ht
  rw [statusWord_complete, hwerr]
  rfl

end Sys2Proof.Machine
end

section
/-! SUPPORT. The completion code of every command by its cause (60_exceptions.md R1103-R1105, R1110). -/

namespace Sys2Proof.Machine

open Sys2Proof

/-- A SKINNY command with Z = 0 (60_exceptions.md R1103). -/
def zeroTweakey : Instr → Bool
  | .skinnyEnc _ z _ => z == 0
  | .skinnyDec _ z _ => z == 0
  | _ => false

/-- The AEAD decryptions, which compare the tag (60_exceptions.md R1105). -/
def checksTag : Instr → Bool
  | .cofbDec => true
  | .skaeadDec _ => true
  | _ => false

theorem zeroTweakey_iff (i : Instr) :
    zeroTweakey i = true ↔ ∃ n rounds, i = .skinnyEnc n 0 rounds ∨ i = .skinnyDec n 0 rounds := by
  cases i <;> simp [zeroTweakey]

theorem writesBuf_iff (i : Instr) :
    writesBuf i = true ↔
      (∃ m, i = .skaeadEnc m ∨ i = .skaeadDec m) ∨ i = .cofbEnc ∨ i = .cofbDec := by
  cases i <;> simp [writesBuf]

theorem checksTag_iff (i : Instr) :
    checksTag i = true ↔ (∃ m, i = .skaeadDec m) ∨ i = .cofbDec := by
  cases i <;> simp [checksTag]

theorem not_zeroTweakey_of_writesBuf {i : Instr} (h : writesBuf i = true) :
    zeroTweakey i = false := by
  cases i with
  | skinnyEnc | skinnyDec => cases h
  | _ => rfl

theorem writesBuf_of_checksTag {i : Instr} (h : checksTag i = true) : writesBuf i = true := by
  cases i with
  | cofbDec | skaeadDec => rfl
  | _ => cases h

/-- `EndsWithCode s i code`: completing `i` in `s` can end with `code`, by the cause of the code
(60_exceptions.md R1101). -/
inductive EndsWithCode (s : State) (i : Instr) : ErrCode → Prop
  | ok (hz : zeroTweakey i = false) (hfit : writesBuf i = true → RegionsFit s) : EndsWithCode s i .ok
  | config (hz : zeroTweakey i = true) : EndsWithCode s i .config
  | precond (hw : writesBuf i = true) (hfit : ¬ RegionsFit s) : EndsWithCode s i .precond
  | auth (hw : checksTag i = true) (hfit : RegionsFit s) : EndsWithCode s i .auth

/-- The range check comes first in every AEAD command (60_exceptions.md R1104). -/
theorem exec_precond {i : Instr} {s : State} (hw : writesBuf i = true) (hfit : ¬ RegionsFit s) :
    exec i s = .next (complete .precond s) := by
  cases i with
  | cofbEnc => exact (exec_cofb_precond hfit).1
  | cofbDec => exact (exec_cofb_precond hfit).2
  | skaeadEnc member => exact (exec_skaead_precond member hfit).1
  | skaeadDec member => exact (exec_skaead_precond member hfit).2
  | _ => cases hw

/-- A command that passes the range check, where it has one, ends by its Z or by its tags. -/
theorem exec_endsWithCode_of_fit (i : Instr) {s : State} (hfit : writesBuf i = true → RegionsFit s) :
    ∃ t, exec i s = .next t ∧ EndsWithCode s i t.err := by
  cases i with
  | nop | clear | gift64Enc | gift64Dec | gift128Enc | gift128Dec | gift128bsEnc | gift128bsDec =>
    exact ⟨_, rfl, .ok rfl hfit⟩
  | skinnyEnc n z rounds =>
    cases z with
    | zero => exact ⟨_, (exec_skinny_config n rounds s).1, .config rfl⟩
    | succ z => exact ⟨_, exec_skinnyEnc_of_pos n z.succ_pos rounds s, .ok rfl hfit⟩
  | skinnyDec n z rounds =>
    cases z with
    | zero => exact ⟨_, (exec_skinny_config n rounds s).2, .config rfl⟩
    | succ z => exact ⟨_, exec_skinnyDec_of_pos n z.succ_pos rounds s, .ok rfl hfit⟩
  | cofbEnc =>
    exact ⟨_, exec_cofbEnc_of_fit ((regionsOk_iff s).mpr (hfit rfl)) rfl, .ok rfl hfit⟩
  | skaeadEnc member =>
    exact ⟨_, exec_skaeadEnc_of_fit member ((regionsOk_iff s).mpr (hfit rfl)) rfl, .ok rfl hfit⟩
  | cofbDec =>
    have hok := (regionsOk_iff s).mpr (hfit rfl)
    by_cases htag : (cofbDecrypt s.params.bsLoading (key128 s) (nonce128 s) (adNibbles s)
      (msgNibbles s)).2 = tag128 s
    · exact ⟨_, exec_cofbDec_of_auth hok (Prod.ext rfl htag), .ok rfl hfit⟩
    · exact ⟨_, exec_cofbDec_of_not_auth hok htag, .auth rfl (hfit rfl)⟩
  | skaeadDec member =>
    have hok := (regionsOk_iff s).mpr (hfit rfl)
    by_cases htag : (skaeadDecrypt s.params.memberBits s.params.tagRule member (key128 s) (nonce128 s)
      (adNibbles s) (msgNibbles s)).2 = expectedSkaeadTag member s
    · exact ⟨_, exec_skaeadDec_of_auth member hok (Prod.ext rfl htag), .ok rfl hfit⟩
    · exact ⟨_, exec_skaeadDec_of_not_auth hok htag, .auth rfl (hfit rfl)⟩

theorem endsWithCode_of_exec {i : Instr} {s t : State} (h : exec i s = .next t) :
    EndsWithCode s i t.err := by
  have hends : ∃ u, exec i s = .next u ∧ EndsWithCode s i u.err := by
    by_cases hfit : writesBuf i = true → RegionsFit s
    · exact exec_endsWithCode_of_fit i hfit
    · obtain ⟨hw, hfit⟩ := Classical.not_imp.mp hfit
      exact ⟨_, exec_precond hw hfit, .precond hw hfit⟩
  obtain ⟨u, hu, hcode⟩ := hends
  cases h.symm.trans hu
  exact hcode

theorem EndsWithCode.config_iff {s : State} {i : Instr} {code : ErrCode} (h : EndsWithCode s i code) :
    code = .config ↔ zeroTweakey i = true := by
  cases h with
  | ok hz => simp [hz]
  | config hz => simp [hz]
  | precond hw => simp [not_zeroTweakey_of_writesBuf hw]
  | auth hw => simp [not_zeroTweakey_of_writesBuf (writesBuf_of_checksTag hw)]

theorem EndsWithCode.precond_iff {s : State} {i : Instr} {code : ErrCode} (h : EndsWithCode s i code) :
    code = .precond ↔ writesBuf i = true ∧ ¬ RegionsFit s := by
  cases h with
  | ok _ hfit => exact ⟨nofun, fun ⟨hw, hnot⟩ => absurd (hfit hw) hnot⟩
  | config hz =>
    refine ⟨nofun, fun ⟨hw, _⟩ => ?_⟩
    rw [not_zeroTweakey_of_writesBuf hw] at hz
    cases hz
  | precond hw hfit => exact ⟨fun _ => ⟨hw, hfit⟩, fun _ => rfl⟩
  | auth _ hfit => exact ⟨nofun, fun ⟨_, hnot⟩ => absurd hfit hnot⟩

theorem EndsWithCode.of_auth {s : State} {i : Instr} (h : EndsWithCode s i .auth) :
    checksTag i = true ∧ RegionsFit s := by
  cases h with
  | auth hw hfit => exact ⟨hw, hfit⟩

end Sys2Proof.Machine
end

section
/-! PROOFS. The completion codes and the interrupt output (60_exceptions.md R1103, R1104, R1120). -/

namespace Sys2Proof.Machine

open Sys2Proof

/-- Settles O21: a decoded word ends with the code of its cause, any other word with ILLEGAL. -/
theorem errorCodesAndTheirCauses : Obligations.ErrorCodesAndTheirCauses := by
  intro s t w hs ht
  cases hdecode : decode w with
  | ok i =>
    rw [completeTurn_decoded hs hdecode] at ht
    have hcode := endsWithCode_of_exec ht
    simp only [Except.ok.injEq, ← zeroTweakey_iff, ← writesBuf_iff, ← checksTag_iff]
    exact ⟨hcode.config_iff, hcode.precond_iff, fun hauth => (hauth ▸ hcode).of_auth⟩
  | error e =>
    rw [completeTurn_illegal hs hdecode] at ht
    obtain rfl := (raiseErr_eq_next .illegal s t).mp ht
    simp [complete]

/-- Settles O13: STATUS and IRQ_EN read their bits, IDLE or BUSY. -/
theorem irqIsALevelOfTheRegisters : Obligations.IrqIsALevelOfTheRegisters := by
  intro s
  have hstatus : hostRead s 0x008#13 = statusWord s := hostRead_control s rfl (by decide)
  have hirqEn : hostRead s 0x00C#13 = irqEnWord s := hostRead_control s rfl (by decide)
  obtain ⟨-, hdone, hwerr, -⟩ := statusWord_bits s
  obtain ⟨hdoneIe, hwerrIe, -⟩ := irqEnWord_bits s
  rw [hstatus, hirqEn, hdone, hwerr, hdoneIe, hwerrIe, irq]

end Sys2Proof.Machine
end

section
/-! SUPPORT. How long a command stays in flight: one step fewer for each turn taken
(70_reset_and_hazards.md R1230). -/

namespace Sys2Proof.Machine

open Sys2Proof

/-- The Complete step leaves the command word in CMD, legal or not (10_state.md R162). -/
theorem completeTurn_cmd {s t : State} (h : completeTurn s = .next t) : t.cmd = s.cmd := by
  rcases completeTurn_cases s with ⟨-, hidle⟩ | ⟨_, i, -, -, hexec⟩ | ⟨_, _, -, -, hraise⟩
  · cases hidle.symm.trans h
    rfl
  · obtain ⟨-, hcmd, -⟩ := (ends_of_exec (hexec.symm.trans h)).keeps_control
    exact hcmd
  · obtain rfl := (raiseErr_eq_next .illegal s t).mp (hraise.symm.trans h)
    rfl

/-- While BUSY a turn of the host leaves the word in flight, CMD and the schedule. -/
theorem hostTurn_keeps_flight {s : State} {w : Word} (hs : s.seq = .busy w) :
    (hostTurn s).seq = .busy w ∧ (hostTurn s).cmd = s.cmd ∧
      (hostTurn s).schedule = s.schedule := by
  obtain ⟨⟨-, hcmd, -, -, -, -, -, -, -, -, -, -, hseq, -, -⟩, hsched⟩ :=
    hostTurn_same (isBusy_of_seq hs)
  exact ⟨hseq.trans hs, hcmd, hsched⟩

/-- Some run of at most `n` steps ends with nothing in flight, DONE = 1 and CMD as in `s`. -/
def CompletesWithin (n : Nat) (s : State) : Prop :=
  ∃ (k : Nat) (t : State), k ≤ n ∧
    Host.Core.run Sys2Proof.core k s = .next t ∧ t.seq = .idle ∧ t.done = true ∧ t.cmd = s.cmd

/-- A Complete step for the word in flight is the whole run. -/
theorem CompletesWithin.of_completeTurn {s u : State} {w : Word} (hstep : step s = completeTurn u)
    (hu : u.seq = .busy w) (hcmd : u.cmd = s.cmd) (n : Nat) : CompletesWithin (n + 1) s := by
  obtain ⟨t, ht, hdone, hidle, -⟩ := completeTurn_completes hu
  exact ⟨1, t, by omega, run_succ (hstep.trans ht) 0, hidle, hdone, (completeTurn_cmd ht).trans hcmd⟩

/-- A step that keeps CMD goes before a run. -/
theorem CompletesWithin.of_step {s u : State} {n : Nat} (hstep : step s = .next u)
    (hcmd : u.cmd = s.cmd) (h : CompletesWithin n u) : CompletesWithin (n + 1) s := by
  obtain ⟨k, t, hk, hrun, hidle, hdone, ht⟩ := h
  exact ⟨k + 1, t, by omega, (run_succ hstep k).trans hrun, hidle, hdone, ht.trans hcmd⟩

/-- The turns of the host before the first Complete step are at most those the schedule names, and
after them the default turn completes (assumption log 3). -/
theorem completesWithin_schedule {turns : List Turn} {s : State} {w : Word} (hs : s.seq = .busy w)
    (hsched : s.schedule = turns) (hreset : Turn.reset ∉ turns) :
    CompletesWithin (turns.length + 1) s := by
  induction turns generalizing s with
  | nil => exact .of_completeTurn (step_default_busy hsched (isBusy_of_seq hs)) hs rfl _
  | cons turn rest ih =>
    obtain ⟨hturn, hrest⟩ := not_or.mp (List.mem_cons.not.mp hreset)
    cases turn with
    | host =>
      obtain ⟨hseq, hcmd, hsched'⟩ := hostTurn_keeps_flight (s := { s with schedule := rest }) hs
      exact .of_step (step_scheduled hsched) hcmd (ih hseq hsched' hrest)
    | complete => exact .of_completeTurn (step_complete hsched) hs rfl _
    | reset => exact absurd rfl hturn

end Sys2Proof.Machine
end

section
/-! PROOFS. Progress of a command in flight (70_reset_and_hazards.md R1230). -/

namespace Sys2Proof.Machine

open Sys2Proof

/-- Settles O26, by induction on the turns that the schedule names. -/
theorem commandInFlightCompletes : Obligations.CommandInFlightCompletes :=
  fun _ _ hs hreset => completesWithin_schedule hs rfl hreset

end Sys2Proof.Machine
end
